-- ==== Sys2Proof/Word.lean ====
section
/-! DEFINITION. The two word types of SDCORE: a byte (spec/00_scope.md R9) and a command word
(spec/30_encoding.md R90). -/

namespace Sys2Proof

/-- A byte is a u8 (spec/00_scope.md R9). -/
abbrev Byte := BitVec 8

/-- A command word is 32 bits (spec/30_encoding.md R90). -/
abbrev Word := BitVec 32

end Sys2Proof
end

