-- ==== Sys2Proof/Machine/Bytes.lean ====
section
/-! DEFINITION. Byte order and bit order: little-endian integers (spec/00_scope.md R9, spec/20_memory.md R74)
and the MSB-first bit stream (spec/00_scope.md R10, spec/20_memory.md R75). -/

namespace Sys2Proof.Machine

/-- A byte sequence as a little-endian number (spec/20_memory.md R74). -/
def leNat : List Byte → Nat
  | [] => 0
  | b :: bs => b.toNat + 256 * leNat bs

/-- The `n` low bytes of a number, least significant first (spec/20_memory.md R74). -/
def leBytes : Nat → Nat → List Byte
  | 0, _ => []
  | n + 1, v => BitVec.ofNat 8 v :: leBytes n (v / 256)

/-- `le16(s, i)` of spec/00_scope.md R9. -/
def le16 (s : List Byte) (i : Nat) : BitVec 16 := BitVec.ofNat 16 (leNat ((s.drop i).take 2))

/-- `le32(s, i)` of spec/00_scope.md R9. -/
def le32 (s : List Byte) (i : Nat) : BitVec 32 := BitVec.ofNat 32 (leNat ((s.drop i).take 4))

/-- A value as `n` bits, its bit `n - 1` first (spec/00_scope.md R10). -/
def bitsOfNat : Nat → Nat → List Bool
  | 0, _ => []
  | n + 1, v => v.testBit n :: bitsOfNat n v

/-- A byte sequence read as a bit stream, each byte from bit 7 to bit 0 (spec/00_scope.md R10). -/
def bitsOfBytes : List Byte → List Bool
  | [] => []
  | b :: bs => bitsOfNat 8 b.toNat ++ bitsOfBytes bs

/-- Bits as a number, the first bit the most significant, on top of the bits `v` already read
(spec/00_scope.md R10). -/
def natOfBitsFrom (v : Nat) : List Bool → Nat
  | [] => v
  | b :: bs => natOfBitsFrom (2 * v + b.toNat) bs

/-- Reading `k` bits as a number: the number and the bits left, or nothing if fewer than `k` remain
(spec/00_scope.md R10). -/
def takeBits (k : Nat) (bits : List Bool) : Option (Nat × List Bool) :=
  if (bits.take k).length = k then some (natOfBitsFrom 0 (bits.take k), bits.drop k) else none

/-- Bits packed MSB-first into bytes, the last byte completed with 0 bits (spec/20_memory.md R75,
spec/43_heatshrink_encoder.md R224). -/
def packBits : List Bool → List Byte
  | [] => []
  | b7 :: b6 :: b5 :: b4 :: b3 :: b2 :: b1 :: b0 :: rest =>
    BitVec.ofNat 8 (natOfBitsFrom 0 [b7, b6, b5, b4, b3, b2, b1, b0]) :: packBits rest
  | short => [BitVec.ofNat 8 (natOfBitsFrom 0 short * 2 ^ (8 - short.length))]

end Sys2Proof.Machine
end

