-- ==== Sys2Proof/Syntax.lean ====
section
/-! DEFINITION. The syntax of SDCORE: the registers RDREG names (spec/10_state.md R20), the raw command
the host issues (spec/30_encoding.md R90), and the 27 instructions of spec/opcode_table.json. -/

namespace Sys2Proof

/-- The registers of spec/10_state.md R20, in the order of its table. -/
inductive Reg
  | sysId
  | crcAcc
  | hsdCfg | hsdInCap | hsdOutCap | hsdStat | hsdInLvl | hsdBitReg | hsdHead | hsdIndex | hsdCount
  | hseCfg | hseInCap | hseOutCap | hseStat | hseQLvl | hseNBits | hseOBits
  | mpStat | mpCharBuf | mpLast | mpOutLen
  | fdPhase | fdCursor | fdMagic | fdVersion | fdCkKind | fdNBlocks | fdError | fdFlags | fdSrcLvl
  | fdBTypeComp | fdBUSize | fdBCSize | fdBParam | fdBCrc
deriving DecidableEq, Repr

/-- A command as the host issues it: a 32-bit word and the data-in bytes `din` (spec/30_encoding.md R90). -/
structure Command where
  /-- The command word (R91: UNIT, OP, IMM). -/
  word : Word
  /-- The operand bytes. -/
  din : List Byte
deriving DecidableEq, Repr

/-- The instructions: one constructor for each row of spec/opcode_table.json, with the operands of
spec/30_encoding.md R93 and R94. -/
inductive Instr
  /-- NOP (spec/40_sys.md R132). -/
  | nop
  /-- RESET_ALL (spec/40_sys.md R134). -/
  | resetAll
  /-- RDREG of an assigned register (spec/40_sys.md R133). -/
  | rdreg (r : Reg)
  /-- CRC_CLEAR (spec/41_crc.md R152). -/
  | crcClear
  /-- CRC_LOAD, its value `le32(din, 0)` (spec/41_crc.md R154). -/
  | crcLoad (v : BitVec 32)
  /-- CRC_BYTE, its byte `IMM[7:0]` (spec/41_crc.md R155). -/
  | crcByte (b : Byte)
  /-- CRC_SPAN (spec/41_crc.md R156). -/
  | crcSpan (din : List Byte)
  /-- CRC_READ (spec/41_crc.md R157). -/
  | crcRead
  /-- HSD_CFG W, L, IN_CAP, OUT_CAP (spec/42_heatshrink_decoder.md R173). -/
  | hsdCfg (w l : BitVec 4) (inCap outCap : BitVec 32)
  /-- HSD_SINK (spec/42_heatshrink_decoder.md R174). -/
  | hsdSink (din : List Byte)
  /-- HSD_POLL (spec/42_heatshrink_decoder.md R180). -/
  | hsdPoll
  /-- HSD_FINISH (spec/42_heatshrink_decoder.md R178). -/
  | hsdFinish
  /-- HSD_RESET (spec/42_heatshrink_decoder.md R179). -/
  | hsdReset
  /-- HSE_CFG W, L, IN_CAP, OUT_CAP (spec/43_heatshrink_encoder.md R213). -/
  | hseCfg (w l : BitVec 4) (inCap outCap : BitVec 32)
  /-- HSE_SINK (spec/43_heatshrink_encoder.md R215). -/
  | hseSink (din : List Byte)
  /-- HSE_POLL (spec/43_heatshrink_encoder.md R221). -/
  | hsePoll
  /-- HSE_FINISH (spec/43_heatshrink_encoder.md R222). -/
  | hseFinish
  /-- HSE_RESET (spec/43_heatshrink_encoder.md R220). -/
  | hseReset
  /-- MP_RESET (spec/44_meatpack.md R253). -/
  | mpReset
  /-- MP_FEED (spec/44_meatpack.md R254). -/
  | mpFeed (din : List Byte)
  /-- FD_START (spec/45_framing_dispatcher.md R293). -/
  | fdStart
  /-- FD_PUSH (spec/45_framing_dispatcher.md R294). -/
  | fdPush (din : List Byte)
  /-- FD_EOF (spec/45_framing_dispatcher.md R295). -/
  | fdEof
  /-- FD_STEP (spec/45_framing_dispatcher.md R299). -/
  | fdStep
  /-- FD_ABORT (spec/45_framing_dispatcher.md R296). -/
  | fdAbort
  /-- FD_RESULT, its block index `IMM[23:0]` (spec/45_framing_dispatcher.md R314). -/
  | fdResult (i : BitVec 24)
  /-- FD_RUN (spec/45_framing_dispatcher.md R312). -/
  | fdRun
deriving DecidableEq, Repr

end Sys2Proof
end

