-- ==== Sys2Proof/WellFormed.lean ====
section
/-! DEFINITION. Which terms of `Instr` an encoding exists for: `din` has 0 to 2^32-1 bytes
(spec/30_encoding.md R90, R92). Every other operand is a field of its own width, which its type says. -/

namespace Sys2Proof

/-- A `din` the transport carries: at most 2^32-1 bytes (spec/30_encoding.md R90). -/
def dinFits (din : List Byte) : Bool := decide (din.length < 4294967296)

/-- The well-formed instructions (spec/30_encoding.md R90, R92, R94). -/
def Instr.wellFormed : Instr → Bool
  | .nop => true
  | .resetAll => true
  | .rdreg _ => true
  | .crcClear => true
  | .crcLoad _ => true
  | .crcByte _ => true
  | .crcSpan din => dinFits din
  | .crcRead => true
  | .hsdCfg _ _ _ _ => true
  | .hsdSink din => dinFits din
  | .hsdPoll => true
  | .hsdFinish => true
  | .hsdReset => true
  | .hseCfg _ _ _ _ => true
  | .hseSink din => dinFits din
  | .hsePoll => true
  | .hseFinish => true
  | .hseReset => true
  | .mpReset => true
  | .mpFeed din => dinFits din
  | .fdStart => true
  | .fdPush din => dinFits din
  | .fdEof => true
  | .fdStep => true
  | .fdAbort => true
  | .fdResult _ => true
  | .fdRun => true

end Sys2Proof
end

