-- ==== Sys2Proof/Decode.lean ====
section
/-! DEFINITION. Decoding a command (spec/30_encoding.md R91 to R94, R97) into an instruction, or rejecting it
by the name of the clause of R97 it breaks; and the encoder, from the same tables. -/

namespace Sys2Proof

open Machine (le32 leBytes)

/-- Why a command is malformed: one name for each clause of spec/30_encoding.md R97. -/
inductive DecodeError
  /-- R97(a): UNIT is 6 to 15. -/
  | reservedUnit
  /-- R97(b): the pair (UNIT, OP) is reserved. -/
  | reservedOp
  /-- R97(c): an IMM bit the command does not use is 1. -/
  | immBits
  /-- R97(d): `din` has a length the command does not take. -/
  | dinLength
  /-- R97(e): RDREG names an unassigned register number. -/
  | unassignedRegister
deriving DecidableEq, Repr

/-- The number of a register (spec/10_state.md R20). -/
def Reg.number : Reg → BitVec 12
  | .sysId => 0x000#12
  | .crcAcc => 0x100#12
  | .hsdCfg => 0x200#12
  | .hsdInCap => 0x201#12
  | .hsdOutCap => 0x202#12
  | .hsdStat => 0x203#12
  | .hsdInLvl => 0x204#12
  | .hsdBitReg => 0x205#12
  | .hsdHead => 0x206#12
  | .hsdIndex => 0x207#12
  | .hsdCount => 0x208#12
  | .hseCfg => 0x300#12
  | .hseInCap => 0x301#12
  | .hseOutCap => 0x302#12
  | .hseStat => 0x303#12
  | .hseQLvl => 0x304#12
  | .hseNBits => 0x305#12
  | .hseOBits => 0x306#12
  | .mpStat => 0x400#12
  | .mpCharBuf => 0x401#12
  | .mpLast => 0x402#12
  | .mpOutLen => 0x403#12
  | .fdPhase => 0x500#12
  | .fdCursor => 0x501#12
  | .fdMagic => 0x502#12
  | .fdVersion => 0x503#12
  | .fdCkKind => 0x504#12
  | .fdNBlocks => 0x505#12
  | .fdError => 0x506#12
  | .fdFlags => 0x507#12
  | .fdSrcLvl => 0x508#12
  | .fdBTypeComp => 0x509#12
  | .fdBUSize => 0x50A#12
  | .fdBCSize => 0x50B#12
  | .fdBParam => 0x50C#12
  | .fdBCrc => 0x50D#12

/-- The registers in the order of the table of spec/10_state.md R20. -/
def Reg.all : List Reg :=
  [.sysId, .crcAcc, .hsdCfg, .hsdInCap, .hsdOutCap, .hsdStat, .hsdInLvl, .hsdBitReg, .hsdHead,
   .hsdIndex, .hsdCount, .hseCfg, .hseInCap, .hseOutCap, .hseStat, .hseQLvl, .hseNBits, .hseOBits]
  ++ [.mpStat, .mpCharBuf, .mpLast, .mpOutLen, .fdPhase, .fdCursor, .fdMagic, .fdVersion, .fdCkKind,
   .fdNBlocks, .fdError, .fdFlags, .fdSrcLvl, .fdBTypeComp, .fdBUSize, .fdBCSize, .fdBParam, .fdBCrc]

/-- The register a 12-bit number is assigned to, if any (spec/10_state.md R20, spec/30_encoding.md R97(e)). -/
def Reg.ofNumber (n : BitVec 12) : Option Reg := Reg.all.find? (fun r => r.number == n)

/-- UNIT and OP, bits 31:24 of a command word (spec/30_encoding.md R91). -/
def opcodeOf (w : Word) : BitVec 8 := w.extractLsb' 24 8

/-- IMM, bits 23:0 of a command word (spec/30_encoding.md R91). -/
def immOf (w : Word) : BitVec 24 := w.extractLsb' 0 24

/-- A command that takes no operand: IMM all 0 and `din` empty (R97(c), R97(d)). -/
def decodeBare (c : Command) (i : Instr) : Except DecodeError Instr :=
  if immOf c.word = 0#24 then
    if c.din.length = 0 then .ok i else .error .dinLength
  else .error .immBits

/-- A command whose operand is all of `din`, 0 to 2^32-1 bytes (R92 "any", R94). -/
def decodeAny (c : Command) (i : List Byte → Instr) : Except DecodeError Instr :=
  if immOf c.word = 0#24 then
    if dinFits c.din then .ok (i c.din) else .error .dinLength
  else .error .immBits

/-- CRC_LOAD's operand: exactly 4 bytes (R94). -/
def decodeLoad (c : Command) (i : BitVec 32 → Instr) : Except DecodeError Instr :=
  if immOf c.word = 0#24 then
    if c.din.length = 4 then .ok (i (le32 c.din 0)) else .error .dinLength
  else .error .immBits

/-- HSD_CFG and HSE_CFG: `W = IMM[3:0]`, `L = IMM[7:4]`, and 8 bytes of capacities (R93, R94). -/
def decodeCfg (c : Command) (i : BitVec 4 → BitVec 4 → BitVec 32 → BitVec 32 → Instr) :
    Except DecodeError Instr :=
  if (immOf c.word).extractLsb' 8 16 = 0#16 then
    if c.din.length = 8 then
      .ok (i ((immOf c.word).extractLsb' 0 4) ((immOf c.word).extractLsb' 4 4) (le32 c.din 0) (le32 c.din 4))
    else .error .dinLength
  else .error .immBits

/-- CRC_BYTE: its byte is `IMM[7:0]`, and `din` is empty (R93). -/
def decodeByte (c : Command) (i : Byte → Instr) : Except DecodeError Instr :=
  if (immOf c.word).extractLsb' 8 16 = 0#16 then
    if c.din.length = 0 then .ok (i ((immOf c.word).extractLsb' 0 8)) else .error .dinLength
  else .error .immBits

/-- RDREG: `IMM[11:0]` is an assigned register number, and `din` is empty (R93, R97(c), R97(e)). -/
def decodeReg (c : Command) (i : Reg → Instr) : Except DecodeError Instr :=
  if (immOf c.word).extractLsb' 12 12 = 0#12 then
    if c.din.length = 0 then
      match Reg.ofNumber ((immOf c.word).extractLsb' 0 12) with
      | some r => .ok (i r)
      | none => .error .unassignedRegister
    else .error .dinLength
  else .error .immBits

/-- FD_RESULT: its index is all of IMM, and `din` is empty (R93). -/
def decodeIndex (c : Command) (i : BitVec 24 → Instr) : Except DecodeError Instr :=
  if c.din.length = 0 then .ok (i (immOf c.word)) else .error .dinLength

/-- The opcode map of spec/30_encoding.md R92, total on every command: a malformed one (R97) is rejected by name. -/
def decode (c : Command) : Except DecodeError Instr :=
  match (opcodeOf c.word).toNat with
  | 0x00 => decodeBare c .nop
  | 0x01 => decodeBare c .resetAll
  | 0x02 => decodeReg c .rdreg
  | 0x10 => decodeBare c .crcClear
  | 0x11 => decodeLoad c .crcLoad
  | 0x12 => decodeByte c .crcByte
  | 0x13 => decodeAny c .crcSpan
  | 0x14 => decodeBare c .crcRead
  | 0x20 => decodeCfg c .hsdCfg
  | 0x21 => decodeAny c .hsdSink
  | 0x22 => decodeBare c .hsdPoll
  | 0x23 => decodeBare c .hsdFinish
  | 0x24 => decodeBare c .hsdReset
  | 0x30 => decodeCfg c .hseCfg
  | 0x31 => decodeAny c .hseSink
  | 0x32 => decodeBare c .hsePoll
  | 0x33 => decodeBare c .hseFinish
  | 0x34 => decodeBare c .hseReset
  | 0x40 => decodeBare c .mpReset
  | 0x41 => decodeAny c .mpFeed
  | 0x50 => decodeBare c .fdStart
  | 0x51 => decodeAny c .fdPush
  | 0x52 => decodeBare c .fdEof
  | 0x53 => decodeBare c .fdStep
  | 0x54 => decodeBare c .fdAbort
  | 0x55 => decodeIndex c .fdResult
  | 0x56 => decodeBare c .fdRun
  | n => if n < 0x60 then .error .reservedOp else .error .reservedUnit

/-! ## The encoder -/

/-- A command word from UNIT and OP (one byte) and IMM (spec/30_encoding.md R91). -/
def commandWord (opcode : BitVec 8) (imm : BitVec 24) : Word := opcode ++ imm

/-- The `din` of a codec configuration: IN_CAP then OUT_CAP, little-endian (spec/30_encoding.md R94, R99). -/
def cfgDin (inCap outCap : BitVec 32) : List Byte :=
  leBytes 4 inCap.toNat ++ leBytes 4 outCap.toNat

/-- The command an instruction is written as (spec/30_encoding.md R92, R93, R94, R99). -/
def encode : Instr → Command
  | .nop => ⟨commandWord 0x00#8 0#24, []⟩
  | .resetAll => ⟨commandWord 0x01#8 0#24, []⟩
  | .rdreg r => ⟨commandWord 0x02#8 (0#12 ++ r.number), []⟩
  | .crcClear => ⟨commandWord 0x10#8 0#24, []⟩
  | .crcLoad v => ⟨commandWord 0x11#8 0#24, leBytes 4 v.toNat⟩
  | .crcByte b => ⟨commandWord 0x12#8 (0#16 ++ b), []⟩
  | .crcSpan din => ⟨commandWord 0x13#8 0#24, din⟩
  | .crcRead => ⟨commandWord 0x14#8 0#24, []⟩
  | .hsdCfg w l i o => ⟨commandWord 0x20#8 (0#16 ++ (l ++ w)), cfgDin i o⟩
  | .hsdSink din => ⟨commandWord 0x21#8 0#24, din⟩
  | .hsdPoll => ⟨commandWord 0x22#8 0#24, []⟩
  | .hsdFinish => ⟨commandWord 0x23#8 0#24, []⟩
  | .hsdReset => ⟨commandWord 0x24#8 0#24, []⟩
  | .hseCfg w l i o => ⟨commandWord 0x30#8 (0#16 ++ (l ++ w)), cfgDin i o⟩
  | .hseSink din => ⟨commandWord 0x31#8 0#24, din⟩
  | .hsePoll => ⟨commandWord 0x32#8 0#24, []⟩
  | .hseFinish => ⟨commandWord 0x33#8 0#24, []⟩
  | .hseReset => ⟨commandWord 0x34#8 0#24, []⟩
  | .mpReset => ⟨commandWord 0x40#8 0#24, []⟩
  | .mpFeed din => ⟨commandWord 0x41#8 0#24, din⟩
  | .fdStart => ⟨commandWord 0x50#8 0#24, []⟩
  | .fdPush din => ⟨commandWord 0x51#8 0#24, din⟩
  | .fdEof => ⟨commandWord 0x52#8 0#24, []⟩
  | .fdStep => ⟨commandWord 0x53#8 0#24, []⟩
  | .fdAbort => ⟨commandWord 0x54#8 0#24, []⟩
  | .fdResult i => ⟨commandWord 0x55#8 i, []⟩
  | .fdRun => ⟨commandWord 0x56#8 0#24, []⟩

/-! ## Words as spec/opcode_table.json numbers them -/

/-- How many bytes of `din` a fixed-length command takes (spec/30_encoding.md R94); 0 for every other command. -/
def fixedDinLength (opcode : Nat) : Nat :=
  match opcode with
  | 0x11 => 4
  | 0x20 => 8
  | 0x30 => 8
  | _ => 0

/-- The command that `nbits` bits `w` stand for: bits 31:0 are the command word, any bits above it are the
bytes of `din` in order, and `din` is filled up with 0x00 to the length a fixed-length command takes (log entry 19). -/
def tableCommand (nbits w : Nat) : Command :=
  let word : Word := BitVec.ofNat 32 w
  ⟨word, leBytes (max (nbits / 8 - 4) (fixedDinLength (opcodeOf word).toNat)) (w / 4294967296)⟩

/-- The instruction the decoder reads from the bits `w` of a row of spec/opcode_table.json. -/
def decodeTableWord (nbits w : Nat) : Option Instr :=
  match decode (tableCommand nbits w) with
  | .ok i => some i
  | .error _ => none

end Sys2Proof
end

