-- ==== Sys2Proof/Config.lean ====
section
/-! DEFINITION. The free values: what SDCORE's spec leaves to the outside or does not state. A free value has no
body: nothing can be proved of which one it is. (The parameter MP_NL_SKIP is a field of State, log entry 4.) -/

namespace Sys2Proof.Config

/-- FREE VALUE. The INFLATE oracle's answer (`none` is ERR) when the host has prepared none: a draw, by the index of
the draw and the payload (spec/45_framing_dispatcher.md R308; log entry 3). -/
opaque inflateDraw : Nat → List Byte → Option (List Byte)

/-- FREE VALUE. The IMAGE port's answer (`true` is ACK) when the host has prepared none: a draw, by the index of the
draw, the format, the width, the height and the bytes (spec/45_framing_dispatcher.md R309; log entry 3). -/
opaque imageDraw : Nat → BitVec 16 → BitVec 16 → BitVec 16 → List Byte → Bool

/-- FREE VALUE. The 32-bit count of a response whose output has 2^32 bytes or more: spec/30_encoding.md R95 gives
`|dout|` and R90 gives it 32 bits (log entry 7). By the index of the draw. -/
opaque unstatedCount : Nat → BitVec 32

end Sys2Proof.Config
end

