-- ==== Sys2Proof/Machine/State.lean ====
section
/-! DEFINITION. The state of SDCORE (spec/10_state.md), unit by unit, with the host's side of the interface beside it,
and the state after reset (spec/70_reset_and_hazards.md R380, R381). -/

namespace Sys2Proof.Machine

/-- An internal memory of bytes (`HSD.DICT`, `HSE.HIST`): the offsets that do not hold 0x00, rising, with their
bytes (spec/10_state.md R33, R41; log entry 10). -/
abbrev Memory := List Host.Cell

/-- The status codes 0 to 10 (spec/30_encoding.md R96); 11 to 15 are never returned. -/
inductive Status
  | ok | full | empty | more | done | range | misuse | wait | fatal | cancelled | illegal
deriving DecidableEq, Repr

/-- A response: status, count and data-out bytes (spec/30_encoding.md R90). -/
structure Response where
  status : Status
  count : BitVec 32
  dout : List Byte
deriving DecidableEq, Repr

/-- The Heatshrink decoder's token state, HSD_STAT.DSTATE (spec/10_state.md R27). -/
inductive DState
  | tag | lit | idxHi | idxLo | cntHi | cntLo | copy
deriving DecidableEq, Repr

/-- The Heatshrink decoder unit (spec/10_state.md R24 to R33). -/
structure Hsd where
  /-- HSD_CFG.CFGD. -/
  cfgd : Bool
  /-- HSD_CFG.W. -/
  w : BitVec 4
  /-- HSD_CFG.L. -/
  l : BitVec 4
  /-- HSD_INCAP. -/
  inCap : BitVec 32
  /-- HSD_OUTCAP. -/
  outCap : BitVec 32
  /-- HSD_STAT.DSTATE. -/
  dstate : DState
  /-- HSD_STAT.FINISHING. -/
  finishing : Bool
  /-- HSD_STAT.MISUSE. -/
  misuse : Bool
  /-- `HSD.INQ`, its head first; HSD_INLVL is its length. -/
  inq : List Byte
  /-- HSD_BITREG.CUR. -/
  cur : Byte
  /-- HSD_BITREG.LEFT. -/
  left : BitVec 4
  /-- HSD_HEAD. -/
  head : BitVec 16
  /-- HSD_INDEX. -/
  index : BitVec 16
  /-- HSD_COUNT. -/
  count : BitVec 16
  /-- `HSD.DICT`. -/
  dict : Memory
deriving DecidableEq, Repr

/-- The Heatshrink encoder unit (spec/10_state.md R34 to R41). -/
structure Hse where
  /-- HSE_CFG.CFGD. -/
  cfgd : Bool
  /-- HSE_CFG.W. -/
  w : BitVec 4
  /-- HSE_CFG.L. -/
  l : BitVec 4
  /-- HSE_INCAP. -/
  inCap : BitVec 32
  /-- HSE_OUTCAP. -/
  outCap : BitVec 32
  /-- HSE_STAT.FINISHING. -/
  finishing : Bool
  /-- HSE_STAT.MISUSE. -/
  misuse : Bool
  /-- `HSE.Q`, its head first; HSE_QLVL is its length. -/
  q : List Byte
  /-- HSE_NBITS. -/
  nbits : BitVec 6
  /-- HSE_OBITS. -/
  obits : BitVec 37
  /-- `HSE.HIST`. -/
  hist : Memory
deriving DecidableEq, Repr

/-- The MeatPack unpacker unit (spec/10_state.md R42 to R45). -/
structure Mpu where
  /-- MP_STAT.PACKING. -/
  packing : Bool
  /-- MP_STAT.NOSPACE. -/
  nospace : Bool
  /-- MP_STAT.CMD_COUNT. -/
  cmdCount : Bool
  /-- MP_STAT.CMD_ACTIVE. -/
  cmdActive : Bool
  /-- MP_STAT.FCQ. -/
  fcq : BitVec 2
  /-- MP_STAT.ADD_SPACE. -/
  addSpace : Bool
  /-- MP_STAT.NONEMPTY. -/
  nonempty : Bool
  /-- MP_CHARBUF. -/
  charBuf : Byte
  /-- MP_LAST. -/
  last : Byte
  /-- MP_OUTLEN. -/
  outLen : BitVec 32
deriving DecidableEq, Repr

/-- The dispatcher's phases, FD_PHASE (spec/10_state.md R46). -/
inductive Phase
  | idle | fileHdr | blkHdr | blkCSize | params | payload | decode | crc | done | error | cancelled
deriving DecidableEq, Repr

/-- The fatal error codes of FD_ERROR (spec/45_framing_dispatcher.md R292). -/
inductive FatalCode
  | none | truncFileHdr | badCkKind | truncBlockHdr | badType | badCompression | truncParams
  | truncPayload | badEncoding | badFormat | unsupportedFormat | ext | truncCrc
deriving DecidableEq, Repr

/-- The routes of a block (spec/30_encoding.md R116, offset 22): 0 INI, 1 TEXT, 2 IMAGE. -/
inductive Route
  | ini | text | image
deriving DecidableEq, Repr

/-- A block record (spec/30_encoding.md R116): the fields of its descriptor, and the routed bytes. -/
structure BlockRecord where
  /-- TYPE. -/
  btype : BitVec 16
  /-- COMP. -/
  comp : BitVec 16
  /-- USIZE. -/
  usize : BitVec 32
  /-- CSIZE. -/
  csize : BitVec 32
  /-- PARAMS. -/
  params : BitVec 48
  /-- CKKIND. -/
  ckKind : BitVec 16
  /-- VALID. -/
  valid : Bool
  /-- SIZE_MISMATCH. -/
  sizeMismatch : Bool
  /-- ROUTE. -/
  route : Route
  /-- STORED_CRC. -/
  storedCrc : BitVec 32
  /-- COMPUTED_CRC. -/
  computedCrc : BitVec 32
  /-- DECLEN. -/
  decLen : BitVec 32
  /-- The routed bytes. -/
  routed : List Byte
deriving DecidableEq, Repr

/-- The framing dispatcher unit (spec/10_state.md R46 to R60). -/
structure Fd where
  /-- FD_PHASE. -/
  phase : Phase
  /-- FD_CURSOR. -/
  cursor : BitVec 64
  /-- FD_MAGIC. -/
  magic : BitVec 32
  /-- FD_VERSION. -/
  version : BitVec 32
  /-- FD_CKKIND. -/
  ckKind : BitVec 16
  /-- FD_ERROR. -/
  error : FatalCode
  /-- FD_FLAGS.EOF. -/
  eof : Bool
  /-- FD_FLAGS.ABORT_REQ. -/
  abortReq : Bool
  /-- FD_FLAGS.MAGIC_OK. -/
  magicOk : Bool
  /-- FD_FLAGS.MISUSE. -/
  misuse : Bool
  /-- FD_FLAGS.HDR_DONE. -/
  hdrDone : Bool
  /-- `FD.SRC`, its head first; FD_SRCLVL is its length. -/
  src : List Byte
  /-- FD_BTYPE_COMP, bits 15:0. -/
  btype : BitVec 16
  /-- FD_BTYPE_COMP, bits 31:16. -/
  comp : BitVec 16
  /-- FD_BUSIZE. -/
  busize : BitVec 32
  /-- FD_BCSIZE. -/
  bcsize : BitVec 32
  /-- FD_BPARAM. -/
  bparam : BitVec 48
  /-- FD_BCRC. -/
  bcrc : BitVec 32
  /-- `FD.PAY`. -/
  pay : List Byte
  /-- `FD.DEC`. -/
  dec : List Byte
  /-- `FD.ROUTE`, the routed bytes. -/
  route : List Byte
  /-- `FD.ROUTE`, the route of the current block. -/
  routeKind : Route
  /-- `FD.RESULTS`, index 0 first; FD_NBLOCKS is its length. -/
  results : List BlockRecord
deriving DecidableEq, Repr

/-- A delivery to a port (spec/45_framing_dispatcher.md R309, R310). -/
inductive PortEvent
  /-- `INI(bytes)`. -/
  | ini (bytes : List Byte)
  /-- `TEXT(bytes)`. -/
  | text (bytes : List Byte)
  /-- `IMAGE(format, width, height, bytes)`. -/
  | image (format width height : BitVec 16) (bytes : List Byte)
deriving DecidableEq, Repr

/-- The host's side of the interface: what it has yet to send, what it has prepared to answer, and what it has seen.
None of it is a part of the block, and no reset changes it (log entries 1, 2, 3). -/
structure HostSide where
  /-- The commands the host has yet to issue, the next one first (spec/40_sys.md R130). -/
  pending : List Command
  /-- The responses given, oldest first (spec/30_encoding.md R90). -/
  responses : List Response
  /-- The port deliveries made, oldest first (spec/45_framing_dispatcher.md R310). -/
  events : List PortEvent
  /-- The payloads given to the INFLATE port, oldest first (spec/45_framing_dispatcher.md R308). -/
  inflateCalls : List (List Byte)
  /-- The INFLATE answers prepared, the next one first; `none` is ERR (spec/45_framing_dispatcher.md R308). -/
  inflateAnswers : List (Option (List Byte))
  /-- The IMAGE answers prepared, the next one first; `true` is ACK (spec/45_framing_dispatcher.md R309). -/
  imageAnswers : List Bool
  /-- The MODEL's own: how many free values of Config have been drawn. -/
  draws : Nat
deriving DecidableEq, Repr

/-- The state of SDCORE. -/
structure State where
  /-- CRC_ACC (spec/10_state.md R23). -/
  crcAcc : BitVec 32
  /-- The HSD unit. -/
  hsd : Hsd
  /-- The HSE unit. -/
  hse : Hse
  /-- The MPU unit. -/
  mpu : Mpu
  /-- The FD unit. -/
  fd : Fd
  /-- The parameter MP_NL_SKIP (spec/00_scope.md R6; log entry 4). No command changes it. -/
  mpNlSkip : Bool
  /-- The host's side of the interface. -/
  host : HostSide
deriving DecidableEq, Repr

/-- SDCORE raises no trap, exception or interrupt (spec/60_exceptions.md R350), and no access can fall outside a
space (spec/20_memory.md R87): there is no fault. -/
inductive Fault
deriving DecidableEq, Repr

/-- Why the model answers nothing. -/
inductive Refusal
  /-- An instruction without a meaning, by its mnemonic. Raised by no arm of this model. Safe. -/
  | notModelled (mnemonic : String)
  /-- FD_PUSH of bytes that make a source of 2^64 bytes or more: "outside the model (refused, D51)"
  (spec/45_framing_dispatcher.md R294). Raised by FD_PUSH. Safe. -/
  | sourceTooLong
  /-- A block whose decoded or routed bytes exceed 2^32 - 37 bytes: "outside the model (refused)"
  (spec/45_framing_dispatcher.md R305, R306). Raised by FD_STEP and FD_RUN. Safe. -/
  | blockTooLong
deriving DecidableEq, Repr

/-- HSD after reset: unconfigured, every register 0, `HSD.INQ` empty, no dictionary (R381). -/
def Hsd.cleared : Hsd :=
  { cfgd := false, w := 0, l := 0, inCap := 0, outCap := 0, dstate := .tag, finishing := false, misuse := false,
    inq := [], cur := 0, left := 0, head := 0, index := 0, count := 0, dict := [] }

/-- HSE after reset: unconfigured, every register 0, `HSE.Q` empty, no history (R381). -/
def Hse.cleared : Hse :=
  { cfgd := false, w := 0, l := 0, inCap := 0, outCap := 0, finishing := false, misuse := false,
    q := [], nbits := 0, obits := 0, hist := [] }

/-- MPU after reset: every register 0 (R381). -/
def Mpu.cleared : Mpu :=
  { packing := false, nospace := false, cmdCount := false, cmdActive := false, fcq := 0, addSpace := false,
    nonempty := false, charBuf := 0, last := 0, outLen := 0 }

/-- FD after reset: IDLE, every register 0, every sequence empty (R381). -/
def Fd.cleared : Fd :=
  { phase := .idle, cursor := 0, magic := 0, version := 0, ckKind := 0, error := .none, eof := false,
    abortReq := false, magicOk := false, misuse := false, hdrDone := false, src := [], btype := 0, comp := 0,
    busize := 0, bcsize := 0, bparam := 0, bcrc := 0, pay := [], dec := [], route := [], routeKind := .ini,
    results := [] }

/-- The host's side before the first command: nothing issued, nothing prepared, nothing seen. -/
def HostSide.start : HostSide :=
  { pending := [], responses := [], events := [], inflateCalls := [], inflateAnswers := [], imageAnswers := [],
    draws := 0 }

/-- The machine right after reset (spec/70_reset_and_hazards.md R380, R381). -/
def State.reset : State :=
  { crcAcc := 0, hsd := .cleared, hse := .cleared, mpu := .cleared, fd := .cleared, mpNlSkip := true,
    host := .start }

end Sys2Proof.Machine
end

