-- ==== Sys2Proof/Machine/Ops.lean ====
section
/-! DEFINITION. The named operations every meaning is written over: the internal memories, the responses, the misuse
of a unit, and the dispatcher's fatal entry and cancellation (spec/60_exceptions.md). -/

namespace Sys2Proof.Machine

/-! ## Internal memories -/

/-- What an offset that no entry lists reads as: the memories are 0x00 after CFG and RESET
(spec/10_state.md R33, R41). -/
def unlistedByte : Byte := 0#8

/-- `MemRead(SPACE:a, 1)` (spec/00_scope.md R11). -/
def memRead : Memory → Nat → Byte
  | [], _ => unlistedByte
  | (a, b) :: m, x => if a = x then b else memRead m x

/-- `MemWrite(SPACE:a, 1, v)` (spec/00_scope.md R11), keeping the canonical form: offsets rising, none listed that
holds 0x00. -/
def memWrite : Memory → Nat → Byte → Memory
  | [], x, v => if v = unlistedByte then [] else [(x, v)]
  | (a, b) :: m, x, v =>
    if x < a then
      if v = unlistedByte then (a, b) :: m else (x, v) :: (a, b) :: m
    else if x = a then
      if v = unlistedByte then m else (a, v) :: m
    else (a, b) :: memWrite m x v

/-- Every entry moved one offset down, the byte at offset 0 dropped (spec/20_memory.md R72). -/
def memDown : Memory → Memory
  | [] => []
  | (0, _) :: m => memDown m
  | (a + 1, b) :: m => (a, b) :: memDown m

/-- One byte shifted into a shift memory of `size` bytes at its newest end (spec/20_memory.md R72). -/
def memShift (size : Nat) (m : Memory) (b : Byte) : Memory := memWrite (memDown m) (size - 1) b

/-- Bytes shifted in, in order: the last `size` bytes of the old content followed by them (spec/20_memory.md R72). -/
def memShiftAll (size : Nat) (m : Memory) (bs : List Byte) : Memory := bs.foldl (memShift size) m

/-- The canonical form of a memory of `size` bytes: offsets strictly rising and below `size`, no entry 0x00. -/
abbrev Memory.wf (size : Nat) (m : Memory) : Prop :=
  m.Pairwise (fun c d => c.1 < d.1) ∧ ∀ c ∈ m, c.1 < size ∧ c.2 ≠ unlistedByte

/-! ## Responses -/

/-- `return STATUS` with a count and the dout built (spec/00_scope.md R11). -/
def State.reply (s : State) (st : Status) (count : BitVec 32) (dout : List Byte) : State :=
  { s with host := { s.host with responses := s.host.responses ++ [⟨st, count, dout⟩] } }

/-- `raise ILLEGAL()`: count 0, empty dout, no state change (spec/00_scope.md R11, spec/60_exceptions.md R352). -/
def State.raiseIllegal (s : State) : State := s.reply .illegal 0 []

/-- `raise MISUSE()` in HSD (spec/00_scope.md R11, spec/60_exceptions.md R353). -/
def State.raiseHsdMisuse (s : State) : State :=
  { s with hsd := { s.hsd with misuse := true } }.reply .misuse 0 []

/-- `raise MISUSE()` in HSE (spec/00_scope.md R11, spec/60_exceptions.md R353). -/
def State.raiseHseMisuse (s : State) : State :=
  { s with hse := { s.hse with misuse := true } }.reply .misuse 0 []

/-- The sticky bit of `raise MISUSE()` in FD (spec/60_exceptions.md R353). -/
def State.setFdMisuse (s : State) : State := { s with fd := { s.fd with misuse := true } }

/-- `raise MISUSE()` in FD (spec/00_scope.md R11, spec/60_exceptions.md R353). -/
def State.raiseFdMisuse (s : State) : State := s.setFdMisuse.reply .misuse 0 []

/-- A delivery to a port: an event that nothing undoes (spec/45_framing_dispatcher.md R310). -/
def State.deliver (s : State) (e : PortEvent) : State :=
  { s with host := { s.host with events := s.host.events ++ [e] } }

/-- The count of a response whose output is `dout` (spec/30_encoding.md R95): its length, and a free value where
32 bits do not hold it (log entry 7). -/
def doutCount (draws : Nat) (dout : List Byte) : BitVec 32 :=
  if dout.length < 4294967296 then BitVec.ofNat 32 dout.length else Config.unstatedCount draws

/-- `doutCount` of an output draws a free value exactly when 32 bits do not hold its length. -/
def drawsAfter (draws : Nat) (dout : List Byte) : Nat :=
  if dout.length < 4294967296 then draws else draws + 1

/-! ## The dispatcher's fatal entry and cancellation -/

/-- A source of this many bytes or more is outside the model (spec/92_eei_decisions.md D51, U22). -/
def sourceLimit : Nat := 18446744073709551616

/-- The longest decoded or routed byte sequence of a block: 2^32 - 37 bytes (spec/92_eei_decisions.md D60, U23). -/
def blockLimit : Nat := 4294967259

/-- `FD.PAY <- []; FD.DEC <- []; FD.ROUTE <- []` (spec/45_framing_dispatcher.md R301, R311). -/
def Fd.dropBlock (f : Fd) : Fd := { f with pay := [], dec := [], route := [], routeKind := .ini }

/-- The fatal entry, `raise FATAL(code)` (spec/60_exceptions.md R356). FD_START and RESET_ALL are the only ways out
(spec/45_framing_dispatcher.md R313). -/
def Fd.raiseFatal (code : FatalCode) (f : Fd) : Fd :=
  { f.dropBlock with error := code, results := [], phase := .error }

/-- `enter CANCELLED` (spec/60_exceptions.md R358). -/
def Fd.enterCancelled (f : Fd) : Fd :=
  { f.dropBlock with results := [], phase := .cancelled }

/-- FD_START: every FD register 0, every sequence empty, phase FILE_HDR (spec/45_framing_dispatcher.md R293). -/
def Fd.started : Fd := { Fd.cleared with phase := .fileHdr }

/-- RESET_ALL: every unit in its reset state (spec/40_sys.md R134). The host's side and the parameter stay. -/
def State.resetUnits (s : State) : State :=
  { s with
    crcAcc := State.reset.crcAcc, hsd := State.reset.hsd, hse := State.reset.hse, mpu := State.reset.mpu,
    fd := State.reset.fd }

end Sys2Proof.Machine
end

