-- ==== Sys2Proof/Machine/Crc.lean ====
section
/-! DEFINITION. The CRC unit (spec/41_crc.md) and the CRC-32 update the dispatcher shares with it. -/

namespace Sys2Proof.Machine

/-- The reflected polynomial (spec/41_crc.md R150). -/
def crcPoly : BitVec 32 := 0xEDB88320#32

/-- One bit of the update: shift right, and XOR the polynomial if the bit shifted out is 1 (R151). -/
def crcBit (c : BitVec 32) : BitVec 32 :=
  if c.getLsbD 0 then (c >>> 1) ^^^ crcPoly else c >>> 1

/-- `crcBit` repeated (R151). -/
def crcBits : Nat → BitVec 32 → BitVec 32
  | 0, c => c
  | n + 1, c => crcBits n (crcBit c)

/-- One byte of the update (R151). -/
def crcByte (c : BitVec 32) (b : Byte) : BitVec 32 := crcBits 8 (c ^^^ b.setWidth 32)

/-- `crc_update(acc, s)` (spec/41_crc.md R151). -/
def crcUpdate (acc : BitVec 32) (s : List Byte) : BitVec 32 :=
  (s.foldl crcByte (acc ^^^ 0xFFFFFFFF#32)) ^^^ 0xFFFFFFFF#32

/-- CRC_CLEAR (spec/41_crc.md R152). -/
def execCrcClear (s : State) : Host.Outcome State Fault Refusal :=
  .next ({ s with crcAcc := 0#32 }.reply .ok 0 [])

/-- CRC_LOAD (spec/41_crc.md R154). -/
def execCrcLoad (v : BitVec 32) (s : State) : Host.Outcome State Fault Refusal :=
  .next ({ s with crcAcc := v }.reply .ok 0 [])

/-- CRC_BYTE (spec/41_crc.md R155). -/
def execCrcByte (b : Byte) (s : State) : Host.Outcome State Fault Refusal :=
  .next ({ s with crcAcc := crcUpdate s.crcAcc [b] }.reply .ok 1 [])

/-- CRC_SPAN (spec/41_crc.md R156). -/
def execCrcSpan (din : List Byte) (s : State) : Host.Outcome State Fault Refusal :=
  .next ({ s with crcAcc := crcUpdate s.crcAcc din }.reply .ok (BitVec.ofNat 32 din.length) [])

/-- CRC_READ (spec/41_crc.md R157). -/
def execCrcRead (s : State) : Host.Outcome State Fault Refusal :=
  .next (s.reply .ok 4 (leBytes 4 s.crcAcc.toNat))

end Sys2Proof.Machine
end

