-- ==== Sys2Proof/Machine/Operands.lean ====
section
/-! DEFINITION. The operand forms of the commands as the units take them: a codec configuration, the bytes a SINK
accepts, and the bits the decoder takes from its input. -/

namespace Sys2Proof.Machine

/-- The legal codec configurations: 4 <= W <= 15, 3 <= L <= W - 1, IN_CAP >= 1, OUT_CAP >= 1
(spec/42_heatshrink_decoder.md R173, spec/43_heatshrink_encoder.md R213, spec/60_exceptions.md R354). -/
def cfgLegal (w l : BitVec 4) (inCap outCap : BitVec 32) : Bool :=
  decide (4 ≤ w.toNat ∧ 3 ≤ l.toNat ∧ l.toNat < w.toNat ∧ 1 ≤ inCap.toNat ∧ 1 ≤ outCap.toNat)

/-- How many bytes a SINK accepts: the room left, or all of `din` if it is shorter
(spec/42_heatshrink_decoder.md R174, spec/43_heatshrink_encoder.md R215). -/
def sinkRoom (inCap : BitVec 32) (queue : List Byte) : Nat := inCap.toNat - queue.length

/-- The bytes of a SINK's `din` that are accepted (R174, R215). -/
def sinkTaken (inCap : BitVec 32) (queue din : List Byte) : List Byte := din.take (sinkRoom inCap queue)

/-! ## The decoder's input bits (spec/42_heatshrink_decoder.md R172, R175) -/

/-- `avail() = LEFT + 8 * |INQ|` (R172). -/
def Hsd.avail (u : Hsd) : Nat := u.left.toNat + 8 * u.inq.length

/-- The bits a state needs before it can fire (R172). -/
def Hsd.need (u : Hsd) : Nat :=
  match u.dstate with
  | .tag => 1
  | .lit => 8
  | .idxHi => u.w.toNat - 8
  | .idxLo => min u.w.toNat 8
  | .cntHi => u.l.toNat - 8
  | .cntLo => min u.l.toNat 8
  | .copy => 0

/-- `if LEFT = 0: CUR <- dequeue(INQ); LEFT <- 8` (R175). The caller guarantees a queued byte; on an empty queue,
which no caller meets, nothing is loaded. -/
def Hsd.load (u : Hsd) : Hsd :=
  if u.left = 0#4 then
    match u.inq with
    | [] => u
    | b :: rest => { u with cur := b, left := 8#4, inq := rest }
  else u

/-- `CUR[LEFT - 1]` of a loaded unit, and `LEFT <- LEFT - 1` (R175). -/
def Hsd.nextBit (u : Hsd) : Bool := u.cur.getLsbD (u.left.toNat - 1)

/-- The unit after one bit has been taken (R175). -/
def Hsd.afterBit (u : Hsd) : Hsd := { u.load with left := u.load.left - 1#4 }

/-- `take(k)` on top of the bits `v` already read (R175): the first bit read is the most significant. -/
def Hsd.takeFrom (v : Nat) : Nat → Hsd → Nat × Hsd
  | 0, u => (v, u)
  | k + 1, u => Hsd.takeFrom (2 * v + u.load.nextBit.toNat) k u.afterBit

/-- `take(k)` (R175): the value read. -/
def Hsd.takeValue (k : Nat) (u : Hsd) : Nat := (Hsd.takeFrom 0 k u).1

/-- `take(k)` (R175): the unit after it. -/
def Hsd.taken (k : Nat) (u : Hsd) : Hsd := (Hsd.takeFrom 0 k u).2

end Sys2Proof.Machine
end

