-- ==== Sys2Proof/Machine/Flags.lean ====
section
/-! DEFINITION. Every flag and every coded field as software reads it: the code of each state, phase, error and
status, the computed DONE bits, and the status registers (spec/10_state.md). Reserved bits read 0 (R98). -/

namespace Sys2Proof.Machine

/-- A flag as a bit. -/
def flagBit (b : Bool) : BitVec 1 := BitVec.ofBool b

/-- The status codes (spec/30_encoding.md R96). -/
def Status.code : Status → BitVec 4
  | .ok => 0#4
  | .full => 1#4
  | .empty => 2#4
  | .more => 3#4
  | .done => 4#4
  | .range => 5#4
  | .misuse => 6#4
  | .wait => 7#4
  | .fatal => 8#4
  | .cancelled => 9#4
  | .illegal => 10#4

/-- The encoding of HSD_STAT.DSTATE (spec/10_state.md R27). -/
def DState.code : DState → BitVec 3
  | .tag => 0#3
  | .lit => 1#3
  | .idxHi => 2#3
  | .idxLo => 3#3
  | .cntHi => 4#3
  | .cntLo => 5#3
  | .copy => 6#3

/-- The encoding of FD_PHASE (spec/10_state.md R46). -/
def Phase.code : Phase → BitVec 4
  | .idle => 0#4
  | .fileHdr => 1#4
  | .blkHdr => 2#4
  | .blkCSize => 3#4
  | .params => 4#4
  | .payload => 5#4
  | .decode => 6#4
  | .crc => 7#4
  | .done => 8#4
  | .error => 9#4
  | .cancelled => 10#4

/-- PHASE is one of FILE_HDR to CRC (spec/45_framing_dispatcher.md R294). -/
def Phase.isActive : Phase → Bool
  | .idle => false
  | .fileHdr => true
  | .blkHdr => true
  | .blkCSize => true
  | .params => true
  | .payload => true
  | .decode => true
  | .crc => true
  | .done => false
  | .error => false
  | .cancelled => false

/-- The codes of FD_ERROR (spec/45_framing_dispatcher.md R292). -/
def FatalCode.code : FatalCode → BitVec 8
  | .none => 0#8
  | .truncFileHdr => 1#8
  | .badCkKind => 2#8
  | .truncBlockHdr => 3#8
  | .badType => 4#8
  | .badCompression => 5#8
  | .truncParams => 6#8
  | .truncPayload => 7#8
  | .badEncoding => 8#8
  | .badFormat => 9#8
  | .unsupportedFormat => 10#8
  | .ext => 11#8
  | .truncCrc => 12#8

/-- The codes of ROUTE (spec/30_encoding.md R116). -/
def Route.code : Route → BitVec 8
  | .ini => 0#8
  | .text => 1#8
  | .image => 2#8

/-- `hsd_done()` (spec/42_heatshrink_decoder.md R181). -/
def Hsd.done (u : Hsd) : Bool :=
  u.finishing && u.inq.isEmpty && u.dstate != .copy && decide (u.avail < u.need)

/-- `hse_done()` (spec/43_heatshrink_encoder.md R222). -/
def Hse.done (u : Hse) : Bool :=
  u.finishing && u.q.isEmpty && u.nbits == 0#6

/-- HSD_CFG and HSE_CFG: CFGD, L, W (spec/10_state.md R24, R34). -/
def cfgWord (cfgd : Bool) (l w : BitVec 4) : BitVec 9 := flagBit cfgd ++ (l ++ w)

/-- HSD_STAT: DONE, MISUSE, FINISHING, DSTATE (spec/10_state.md R27). DONE is 0 when CFGD = 0. -/
def Hsd.stat (u : Hsd) : BitVec 6 :=
  flagBit (u.cfgd && u.done) ++ (flagBit u.misuse ++ (flagBit u.finishing ++ u.dstate.code))

/-- HSD_BITREG: LEFT, CUR (spec/10_state.md R29). -/
def Hsd.bitReg (u : Hsd) : BitVec 12 := u.left ++ u.cur

/-- HSE_STAT: DONE, MISUSE, FINISHING (spec/10_state.md R37). DONE is 0 when CFGD = 0. -/
def Hse.stat (u : Hse) : BitVec 3 :=
  flagBit (u.cfgd && u.done) ++ (flagBit u.misuse ++ flagBit u.finishing)

/-- MP_STAT: NONEMPTY, ADD_SPACE, FCQ, CMD_ACTIVE, CMD_COUNT, NOSPACE, PACKING (spec/10_state.md R42). -/
def Mpu.stat (m : Mpu) : BitVec 8 :=
  flagBit m.nonempty ++ (flagBit m.addSpace ++ (m.fcq ++ (flagBit m.cmdActive ++
    (flagBit m.cmdCount ++ (flagBit m.nospace ++ flagBit m.packing)))))

/-- FD_FLAGS: HDR_DONE, MISUSE, MAGIC_OK, ABORT_REQ, EOF (spec/10_state.md R53). -/
def Fd.flags (f : Fd) : BitVec 5 :=
  flagBit f.hdrDone ++ (flagBit f.misuse ++ (flagBit f.magicOk ++ (flagBit f.abortReq ++ flagBit f.eof)))

/-- FD_BTYPE_COMP: COMP, TYPE (spec/10_state.md R55). -/
def Fd.btypeComp (f : Fd) : BitVec 32 := f.comp ++ f.btype

/-- FD_NBLOCKS: the number of block records held (spec/10_state.md R51). -/
def Fd.nblocks (f : Fd) : BitVec 32 := BitVec.ofNat 32 f.results.length

/-- FD_SRCLVL: the number of bytes in `FD.SRC` (spec/10_state.md R54). -/
def Fd.srcLvl (f : Fd) : BitVec 64 := BitVec.ofNat 64 f.src.length

end Sys2Proof.Machine
end

