-- ==== Sys2Proof/Machine/Hsd.lean ====
section
/-! DEFINITION. The HSD unit (spec/42_heatshrink_decoder.md): the streaming Heatshrink decoder, and the pure
decoder `hs_decode` (R183) that the dispatcher uses. -/

namespace Sys2Proof.Machine

/-- `stream_reset()` (R179). -/
def Hsd.streamReset (u : Hsd) : Hsd :=
  { u with dict := [], inq := [], cur := 0, left := 0, head := 0, index := 0, count := 0, dstate := .tag,
           finishing := false, misuse := false }

/-- `2^W`, the size of the dictionary (spec/10_state.md R33). -/
def Hsd.size (u : Hsd) : Nat := 2 ^ u.w.toNat

/-- `put(c)` without its emission (R175): the byte is stored at `HEAD mod 2^W` and HEAD advances. -/
def Hsd.put (u : Hsd) (c : Byte) : Hsd :=
  { u with dict := memWrite u.dict (u.head.toNat % u.size) c, head := u.head + 1#16 }

/-- The byte a copy step reads, at `(HEAD - INDEX) mod 2^W` (R176). -/
def Hsd.copyByte (u : Hsd) : Byte := memRead u.dict ((u.head - u.index).toNat % u.size)

/-- `copy_step()` without its emission (R176). -/
def Hsd.copyStep (u : Hsd) : Hsd :=
  { u.put u.copyByte with count := u.count - 1#16, dstate := if u.count - 1#16 = 0#16 then .tag else .copy }

/-- The byte a literal outputs, `take(8)` (R176). -/
def Hsd.litByte (u : Hsd) : Byte := BitVec.ofNat 8 (u.takeValue 8)

/-- `step()` without its emission (R176), for every state except COPY, which it leaves as it is. -/
def Hsd.step (u : Hsd) : Hsd :=
  match u.dstate with
  | .tag =>
    if u.takeValue 1 = 1 then { u.taken 1 with dstate := .lit }
    else { u.taken 1 with index := 0#16, dstate := if 8 < u.w.toNat then .idxHi else .idxLo }
  | .lit => { (u.taken 8).put u.litByte with dstate := .tag }
  | .idxHi =>
    { u.taken (u.w.toNat - 8) with
      index := BitVec.ofNat 16 (u.takeValue (u.w.toNat - 8)) <<< 8, dstate := .idxLo }
  | .idxLo =>
    { u.taken (min u.w.toNat 8) with
      index := (u.index ||| BitVec.ofNat 16 (u.takeValue (min u.w.toNat 8))) + 1#16, count := 0#16,
      dstate := if 8 < u.l.toNat then .cntHi else .cntLo }
  | .cntHi =>
    { u.taken (u.l.toNat - 8) with
      count := BitVec.ofNat 16 (u.takeValue (u.l.toNat - 8)) <<< 8, dstate := .cntLo }
  | .cntLo =>
    { u.taken (min u.l.toNat 8) with
      count := (u.count ||| BitVec.ofNat 16 (u.takeValue (min u.l.toNat 8))) + 1#16, dstate := .copy }
  | .copy => u

/-- What HSD_POLL leaves: the unit, the status and the bytes it output. -/
structure HsdPolled where
  unit : Hsd
  status : Status
  dout : List Byte
deriving DecidableEq, Repr

/-- A byte output before the rest. -/
def HsdPolled.after (c : Byte) (r : HsdPolled) : HsdPolled := ⟨r.unit, r.status, c :: r.dout⟩

/-- The loop of HSD_POLL with `room = OUT_CAP - |dout|` (R180, firing conditions R177). The fuel bounds the number of
iterations (spec/70_reset_and_hazards.md R387; log entry 14). -/
def hsdPollLoop : Nat → Nat → Hsd → HsdPolled
  | 0, _, u => ⟨u, .empty, []⟩
  | fuel + 1, room, u =>
    if u.dstate = .copy then
      if room = 0 then ⟨u, .more, []⟩
      else (hsdPollLoop fuel (room - 1) u.copyStep).after u.copyByte
    else if u.avail < u.need then ⟨u, .empty, []⟩
    else if u.dstate = .lit then
      if room = 0 then ⟨u, .more, []⟩
      else (hsdPollLoop fuel (room - 1) u.step).after u.litByte
    else hsdPollLoop fuel room u.step

/-- Enough iterations for any unit: each outputs a byte, takes a bit, or moves one of at most four states on
towards the next tag. -/
def Hsd.pollFuel (u : Hsd) : Nat := u.outCap.toNat + 5 * u.avail + 5

/-- HSD_POLL of a configured unit (R180). -/
def Hsd.poll (u : Hsd) : HsdPolled := hsdPollLoop u.pollFuel u.outCap.toNat u

/-- HSD_CFG (R173). -/
def execHsdCfg (w l : BitVec 4) (inCap outCap : BitVec 32) (s : State) : Host.Outcome State Fault Refusal :=
  if cfgLegal w l inCap outCap then
    .next ({ s with
      hsd := { s.hsd with cfgd := true, w := w, l := l, inCap := inCap, outCap := outCap }.streamReset }.reply .ok 0 [])
  else .next ({ s with hsd := Hsd.cleared }.reply .range 0 [])

/-- HSD_SINK (R174). -/
def execHsdSink (din : List Byte) (s : State) : Host.Outcome State Fault Refusal :=
  if s.hsd.cfgd = false ∨ s.hsd.finishing = true then .next s.raiseHsdMisuse
  else if sinkRoom s.hsd.inCap s.hsd.inq = 0 then .next (s.reply .full 0 [])
  else
    .next ({ s with hsd := { s.hsd with inq := s.hsd.inq ++ sinkTaken s.hsd.inCap s.hsd.inq din } }.reply .ok
      (BitVec.ofNat 32 (sinkTaken s.hsd.inCap s.hsd.inq din).length) [])

/-- HSD_POLL (R180). -/
def execHsdPoll (s : State) : Host.Outcome State Fault Refusal :=
  if s.hsd.cfgd = false then .next s.raiseHsdMisuse
  else
    .next ({ s with hsd := s.hsd.poll.unit }.reply s.hsd.poll.status
      (BitVec.ofNat 32 s.hsd.poll.dout.length) s.hsd.poll.dout)

/-- HSD_FINISH (R178). -/
def execHsdFinish (s : State) : Host.Outcome State Fault Refusal :=
  if s.hsd.cfgd = false then .next s.raiseHsdMisuse
  else
    .next ({ s with hsd := { s.hsd with finishing := true } }.reply
      (if { s.hsd with finishing := true }.done then .done else .more) 0 [])

/-- HSD_RESET (R179). -/
def execHsdReset (s : State) : Host.Outcome State Fault Refusal :=
  if s.hsd.cfgd = false then .next s.raiseHsdMisuse
  else .next ({ s with hsd := s.hsd.streamReset }.reply .ok 0 [])

/-! ## The pure decoder (R183) -/

/-- A decoder's output so far: its dictionary and the count of bytes output. -/
structure HsWindow where
  dict : Memory
  head : Nat
deriving DecidableEq, Repr

/-- `dict[head mod 2^W] <- c; head <- head + 1` (R183). -/
def HsWindow.push (w : Nat) (d : HsWindow) (c : Byte) : HsWindow :=
  ⟨memWrite d.dict (d.head % 2 ^ w) c, d.head + 1⟩

/-- `dict[(head - o) mod 2^W]` (R183), for an offset `o` of at most 2^W. -/
def HsWindow.back (w : Nat) (d : HsWindow) (o : Nat) : Byte :=
  memRead d.dict ((d.head + 2 ^ w - o) % 2 ^ w)

/-- `repeat l times` of a backreference (R183): the bytes it outputs. -/
def hsCopyBytes (w o : Nat) : Nat → HsWindow → List Byte
  | 0, _ => []
  | l + 1, d => d.back w o :: hsCopyBytes w o l (d.push w (d.back w o))

/-- `repeat l times` of a backreference (R183): the window after it. -/
def hsCopyWindow (w o : Nat) : Nat → HsWindow → HsWindow
  | 0, d => d
  | l + 1, d => hsCopyWindow w o l (d.push w (d.back w o))

/-- The loop of `hs_decode` (R183). Each iteration reads at least one bit, so `|bits| + 1` iterations are enough
(log entry 14). -/
def hsDecodeLoop (w l : Nat) : Nat → List Bool → HsWindow → List Byte
  | 0, _, _ => []
  | _ + 1, [], _ => []
  | fuel + 1, true :: bits, d =>
    match takeBits 8 bits with
    | none => []
    | some (c, rest) => BitVec.ofNat 8 c :: hsDecodeLoop w l fuel rest (d.push w (BitVec.ofNat 8 c))
  | fuel + 1, false :: bits, d =>
    match takeBits w bits with
    | none => []
    | some (o, rest) =>
      match takeBits l rest with
      | none => []
      | some (n, rest') =>
        hsCopyBytes w (o + 1) (n + 1) d ++ hsDecodeLoop w l fuel rest' (hsCopyWindow w (o + 1) (n + 1) d)

/-- `hs_decode(W, L, s)` (R183). -/
def hsDecode (w l : Nat) (s : List Byte) : List Byte :=
  hsDecodeLoop w l ((bitsOfBytes s).length + 1) (bitsOfBytes s) ⟨[], 0⟩

end Sys2Proof.Machine
end

