-- ==== Sys2Proof/Machine/Mpu.lean ====
section
/-! DEFINITION. The MPU unit (spec/44_meatpack.md): the MeatPack unpacker with readability restoration, and the pure
unpacker `mp_decode` (R255) that the dispatcher uses. -/

namespace Sys2Proof.Machine

/-- What a part of the unpacker leaves: the unit and the bytes it output. -/
structure MpOut where
  unit : Mpu
  dout : List Byte
deriving DecidableEq, Repr

/-- Nothing output. -/
def Mpu.silent (m : Mpu) : MpOut := ⟨m, []⟩

/-- One part after another: the outputs in order. -/
def MpOut.andThen (a : MpOut) (f : Mpu → MpOut) : MpOut := ⟨(f a.unit).unit, a.dout ++ (f a.unit).dout⟩

/-- `sym(n)` for n from 0x0 to 0xE (R251, spec/30_encoding.md R114). The escape 0xF is never passed. -/
def Mpu.sym (m : Mpu) (n : BitVec 4) : Byte :=
  if n.toNat ≤ 9 then 0x30#8 + n.setWidth 8
  else if n = 0xA#4 then 0x2E#8
  else if n = 0xB#4 then (if m.nospace then 0x45#8 else 0x20#8)
  else if n = 0xC#4 then 0x0A#8
  else if n = 0xD#4 then 0x47#8
  else 0x58#8

/-- `command(c)` (R252, spec/30_encoding.md R117). -/
def Mpu.command (m : Mpu) (c : Byte) : Mpu :=
  if c = 0xFB#8 then { m with packing := true }
  else if c = 0xFA#8 then { m with packing := false }
  else if c = 0xF9#8 then { m with packing := false }
  else if c = 0xF7#8 then { m with nospace := true }
  else if c = 0xF6#8 then { m with nospace := false }
  else m

/-- `out(b)` (R260). -/
def Mpu.out (b : Byte) (m : Mpu) : MpOut :=
  ⟨{ m with last := b, nonempty := true, outLen := m.outLen + 1#32 }, [b]⟩

/-- The letters a space is restored before: X Y Z E F I J R P W H C A (R260). -/
def isParameterLetter (ch : Byte) : Bool :=
  [0x58#8, 0x59#8, 0x5A#8, 0x45#8, 0x46#8, 0x49#8, 0x4A#8, 0x52#8, 0x50#8, 0x57#8, 0x48#8, 0x43#8, 0x41#8].contains ch

/-- The first part of `emit(ch)`: ADD_SPACE is set by a 'G' at a line's start and cleared by a newline (R260). -/
def Mpu.noteLine (ch : Byte) (m : Mpu) : Mpu :=
  if ch = 0x47#8 ∧ (m.nonempty = false ∨ m.last = 0x0A#8) then { m with addSpace := true }
  else if ch = 0x0A#8 then { m with addSpace := false }
  else m

/-- The second part of `emit(ch)`: one space is reinserted before a parameter letter (R260). -/
def Mpu.restoreSpace (ch : Byte) (m : Mpu) : MpOut :=
  if m.addSpace = true ∧ (m.nonempty = false ∨ m.last ≠ 0x20#8) ∧ isParameterLetter ch = true then m.out 0x20#8
  else m.silent

/-- The third part of `emit(ch)`: the character, but for a newline after a newline (R260). -/
def Mpu.outUnlessDouble (ch : Byte) (m : Mpu) : MpOut :=
  if ch ≠ 0x0A#8 ∨ m.nonempty = false ∨ m.last ≠ 0x0A#8 then m.out ch else m.silent

/-- `emit(ch)`: output with readability restoration (R260). -/
def Mpu.emit (ch : Byte) (m : Mpu) : MpOut :=
  ((m.noteLine ch).restoreSpace ch).andThen (Mpu.outUnlessDouble ch)

/-- The first symbol of a packed byte, its low nibble (spec/20_memory.md R76). -/
def loNibble (c : Byte) : BitVec 4 := c.extractLsb' 0 4

/-- The second symbol of a packed byte, its high nibble (spec/20_memory.md R76). -/
def hiNibble (c : Byte) : BitVec 4 := c.extractLsb' 4 4

/-- `unpack(c)` (R259), with the parameter MP_NL_SKIP (R264). -/
def Mpu.unpack (nlSkip : Bool) (c : Byte) (m : Mpu) : MpOut :=
  if loNibble c = 0xF#4 then
    if hiNibble c = 0xF#4 then { m with fcq := m.fcq + 2#2 }.silent
    else { m with fcq := m.fcq + 1#2, charBuf := m.sym (hiNibble c) }.silent
  else
    (m.emit (m.sym (loNibble c))).andThen fun m1 =>
      if nlSkip = true ∧ m.sym (loNibble c) = 0x0A#8 then m1.silent
      else if hiNibble c = 0xF#4 then { m1 with fcq := m1.fcq + 1#2 }.silent
      else m1.emit (m1.sym (hiNibble c))

/-- The held character follows a full character (R258). -/
def Mpu.emitHeld (m : Mpu) : MpOut :=
  if m.charBuf ≠ 0#8 then (m.emit m.charBuf).andThen fun m1 => { m1 with charBuf := 0#8 }.silent
  else m.silent

/-- `rx(c)`: data delivery (R258). -/
def Mpu.rx (nlSkip : Bool) (c : Byte) (m : Mpu) : MpOut :=
  if m.packing = false then m.emit c
  else if m.fcq ≠ 0#2 then
    ((m.emit c).andThen Mpu.emitHeld).andThen fun m1 => { m1 with fcq := m1.fcq - 1#2 }.silent
  else m.unpack nlSkip c

/-- A pending single 0xFF was data: it is re-injected (R257). -/
def Mpu.reinject (nlSkip : Bool) (m : Mpu) : MpOut :=
  if m.cmdCount then (m.rx nlSkip 0xFF#8).andThen fun m1 => { m1 with cmdCount := false }.silent
  else m.silent

/-- `mp_byte(c)` (R257). -/
def Mpu.byte (nlSkip : Bool) (c : Byte) (m : Mpu) : MpOut :=
  if c = 0xFF#8 then
    if m.cmdCount then { m with cmdActive := true, cmdCount := false }.silent
    else { m with cmdCount := true }.silent
  else if m.cmdActive then { m.command c with cmdActive := false }.silent
  else (m.reinject nlSkip).andThen (Mpu.rx nlSkip c)

/-- `mp_byte` over a byte sequence, in order (R254). -/
def Mpu.feed (nlSkip : Bool) : List Byte → Mpu → MpOut
  | [], m => m.silent
  | c :: cs, m => (m.byte nlSkip c).andThen (Mpu.feed nlSkip cs)

/-- `mp_decode(s)` (R255): the output of a fresh unpacker. -/
def mpDecode (nlSkip : Bool) (s : List Byte) : List Byte := (Mpu.cleared.feed nlSkip s).dout

/-- MP_RESET (R253). -/
def execMpReset (s : State) : Host.Outcome State Fault Refusal :=
  .next ({ s with mpu := Mpu.cleared }.reply .ok 0 [])

/-- The response to a feed that left `r` (R254, spec/30_encoding.md R95). -/
def State.afterFeed (s : State) (r : MpOut) : State :=
  { s with mpu := r.unit, host := { s.host with draws := drawsAfter s.host.draws r.dout } }.reply .ok
    (doutCount s.host.draws r.dout) r.dout

/-- MP_FEED (R254). The count is a free value where 32 bits do not hold the length of the text (log entry 7). -/
def execMpFeed (din : List Byte) (s : State) : Host.Outcome State Fault Refusal :=
  .next (s.afterFeed (s.mpu.feed s.mpNlSkip din))

end Sys2Proof.Machine
end

