-- ==== Sys2Proof/Machine/Fd.lean ====
section
/-! DEFINITION. The FD unit (spec/45_framing_dispatcher.md): the framing dispatcher, one phase per step, with checksum
verification, compression dispatch, content routing and block records. -/

namespace Sys2Proof.Machine

/-! ## What a step answers -/

/-- What a dispatcher step leaves: the state, its status, and the number of source bytes it consumed (R299). -/
structure FdDone where
  state : State
  status : Status
  used : Nat
deriving DecidableEq, Repr

/-- A step ends, or runs out of the model by name (R305, R306). -/
inductive FdAnswer
  | done (d : FdDone)
  | refused (r : Refusal)
deriving DecidableEq, Repr

/-- The state with its FD unit replaced. -/
def State.withFd (s : State) (f : Fd) : State := { s with fd := f }

/-- `return st` from a phase that consumed `n` bytes (R299). -/
def fdReturn (s : State) (st : Status) (n : Nat) : FdAnswer := .done ⟨s, st, n⟩

/-- `raise FATAL(code)` from a phase that consumed `n` bytes (spec/60_exceptions.md R356). -/
def fdFatal (code : FatalCode) (s : State) (n : Nat) : FdAnswer :=
  fdReturn (s.withFd (s.fd.raiseFatal code)) .fatal n

/-! ## Reading the source (R298) -/

/-- The first `n` bytes of `FD.SRC`. -/
def Fd.front (n : Nat) (f : Fd) : List Byte := f.src.take n

/-- `FD.SRC` without its first `n` bytes, CURSOR past them. -/
def Fd.consumed (n : Nat) (f : Fd) : Fd := { f with src := f.src.drop n, cursor := f.cursor + BitVec.ofNat 64 n }

/-- `read(N, code)` and the phase that goes on with its bytes (R298). -/
def fdRead (n : Nat) (code : FatalCode) (s : State) (next : List Byte → State → FdAnswer) : FdAnswer :=
  if n ≤ s.fd.src.length then next (s.fd.front n) (s.withFd (s.fd.consumed n))
  else if s.fd.eof then fdFatal code s 0
  else fdReturn s .wait 0

/-! ## The phases -/

/-- The magic "GCDE" (spec/30_encoding.md R101). -/
def magicBytes : List Byte := [0x47#8, 0x43#8, 0x44#8, 0x45#8]

/-- FILE_HDR's record of what it read (R300). -/
def Fd.gotFileHdr (h : List Byte) (f : Fd) : Fd :=
  { f with magic := le32 h 0, version := le32 h 4, ckKind := le16 h 8, magicOk := h.take 4 == magicBytes }

/-- Phase FILE_HDR (R300). -/
def fdFileHdr (s : State) : FdAnswer :=
  fdRead 10 .truncFileHdr s fun h t =>
    if 1 < (le16 h 8).toNat then fdFatal .badCkKind (t.withFd (t.fd.gotFileHdr h)) 10
    else fdReturn (t.withFd { t.fd.gotFileHdr h with hdrDone := true, phase := .blkHdr }) .ok 10

/-- BLK_HDR's record of what it read (R301). -/
def Fd.gotBlkHdr (h : List Byte) (f : Fd) : Fd :=
  { f.dropBlock with
    bparam := 0#48, bcsize := 0#32, btype := le16 h 0, comp := le16 h 2, busize := le32 h 4,
    bcrc := crcUpdate 0#32 h }

/-- Phase BLK_HDR (R301). -/
def fdBlkHdr (s : State) : FdAnswer :=
  if s.fd.abortReq then fdReturn (s.withFd s.fd.enterCancelled) .cancelled 0
  else if s.fd.eof = true ∧ s.fd.src = [] then fdReturn (s.withFd { s.fd with phase := .done }) .done 0
  else
    fdRead 8 .truncBlockHdr s fun h t =>
      if 5 < (le16 h 0).toNat then fdFatal .badType (t.withFd (t.fd.gotBlkHdr h)) 8
      else if 3 < (le16 h 2).toNat then fdFatal .badCompression (t.withFd (t.fd.gotBlkHdr h)) 8
      else
        fdReturn
          (t.withFd { t.fd.gotBlkHdr h with phase := if le16 h 2 ≠ 0#16 then .blkCSize else .params }) .ok 8

/-- Phase BLK_CSIZE (R302). -/
def fdBlkCSize (s : State) : FdAnswer :=
  fdRead 4 .truncBlockHdr s fun c t =>
    fdReturn
      (t.withFd { t.fd with bcsize := le32 c 0, bcrc := crcUpdate t.fd.bcrc c, phase := .params }) .ok 4

/-- The length of the parameter field (R303, spec/30_encoding.md R105). -/
def Fd.paramLen (f : Fd) : Nat := if f.btype = 5#16 then 6 else 2

/-- Phase PARAMS (R303). -/
def fdParams (s : State) : FdAnswer :=
  fdRead s.fd.paramLen .truncParams s fun p t =>
    fdReturn
      (t.withFd { t.fd with
        bparam := BitVec.ofNat 48 (leNat p), bcrc := crcUpdate t.fd.bcrc p, phase := .payload }) .ok s.fd.paramLen

/-- The length of the payload (R304, spec/30_encoding.md R107). -/
def Fd.payLen (f : Fd) : Nat := if f.comp ≠ 0#16 then f.bcsize.toNat else f.busize.toNat

/-- Phase PAYLOAD (R304). -/
def fdPayload (s : State) : FdAnswer :=
  fdRead s.fd.payLen .truncPayload s fun p t =>
    fdReturn (t.withFd { t.fd with pay := p, bcrc := crcUpdate t.fd.bcrc p, phase := .decode }) .ok s.fd.payLen

/-! ## The oracles (R308, R309) -/

/-- The INFLATE port's answer to the payload (R308): the one the host prepared, or a free value. -/
def State.inflateAnswer (s : State) (bytes : List Byte) : Option (List Byte) :=
  match s.host.inflateAnswers with
  | a :: _ => a
  | [] => Config.inflateDraw s.host.draws bytes

/-- The state after the INFLATE port has been called (R308). -/
def State.inflateCalled (s : State) (bytes : List Byte) : State :=
  { s with host := { s.host with
      inflateCalls := s.host.inflateCalls ++ [bytes],
      inflateAnswers := s.host.inflateAnswers.tail,
      draws := if s.host.inflateAnswers = [] then s.host.draws + 1 else s.host.draws } }

/-- The IMAGE port's answer (R309), `true` for ACK: the one the host prepared, or a free value. -/
def State.imageAnswer (s : State) (format width height : BitVec 16) (bytes : List Byte) : Bool :=
  match s.host.imageAnswers with
  | a :: _ => a
  | [] => Config.imageDraw s.host.draws format width height bytes

/-- The state after the IMAGE port has been called: the delivery is an event, whatever the answer (R309, R310). -/
def State.imageCalled (s : State) (format width height : BitVec 16) (bytes : List Byte) : State :=
  { s.deliver (.image format width height bytes) with
    host := { (s.deliver (.image format width height bytes)).host with
      imageAnswers := s.host.imageAnswers.tail,
      draws := if s.host.imageAnswers = [] then s.host.draws + 1 else s.host.draws } }

/-! ## Phase DECODE (R305, R306) -/

/-- Compression dispatch (R305): the bytes after it, or the fatal code. COMP above 3 never reaches this phase (R301);
it would be E_BAD_COMPRESSION (log entry 13). -/
def State.decompressed (s : State) : Except FatalCode (List Byte) :=
  if s.fd.comp = 0#16 then .ok s.fd.pay
  else if s.fd.comp = 1#16 then
    match s.inflateAnswer s.fd.pay with
    | some out => .ok out
    | none => .error .ext
  else if s.fd.comp = 2#16 then .ok (hsDecode 11 4 s.fd.pay)
  else if s.fd.comp = 3#16 then .ok (hsDecode 12 4 s.fd.pay)
  else .error .badCompression

/-- The state after compression dispatch: the INFLATE port has been called if COMP is 1 (R305, R308). -/
def State.afterDecompress (s : State) : State :=
  if s.fd.comp = 1#16 then s.inflateCalled s.fd.pay else s

/-- `append_record(valid, stored, computed, route)` (R311). -/
def Fd.record (valid : Bool) (stored computed : BitVec 32) (f : Fd) : BlockRecord :=
  { btype := f.btype, comp := f.comp, usize := f.busize, csize := f.bcsize, params := f.bparam, ckKind := f.ckKind,
    valid := valid, sizeMismatch := decide (f.dec.length ≠ f.busize.toNat), route := f.routeKind,
    storedCrc := stored, computedCrc := computed, decLen := BitVec.ofNat 32 f.dec.length, routed := f.route }

/-- `append_record(valid, stored, computed, route)` (R311): the record appended and the block's bytes dropped. -/
def Fd.appendRecord (valid : Bool) (stored computed : BitVec 32) (f : Fd) : Fd :=
  { f.dropBlock with results := f.results ++ [f.record valid stored computed] }

/-- The end of phase DECODE: to CRC, or a record without a checksum (R306). -/
def fdDecoded (s : State) : FdAnswer :=
  if s.fd.ckKind = 1#16 then fdReturn (s.withFd { s.fd with phase := .crc }) .ok 0
  else fdReturn (s.withFd { s.fd.appendRecord true 0#32 0#32 with phase := .blkHdr }) .ok 0

/-- `FD.DEC` set (R305). -/
def Fd.withDec (d : List Byte) (f : Fd) : Fd := { f with dec := d }

/-- `FD.ROUTE` set (R306). -/
def Fd.withRoute (k : Route) (r : List Byte) (f : Fd) : Fd := { f with route := r, routeKind := k }

/-- The parameter code, `BPARAM[15:0]` (R306). -/
def Fd.paramCode (f : Fd) : BitVec 16 := f.bparam.extractLsb' 0 16

/-- A Thumbnail block's width, `BPARAM[31:16]` (R306). -/
def Fd.paramWidth (f : Fd) : BitVec 16 := f.bparam.extractLsb' 16 16

/-- A Thumbnail block's height, `BPARAM[47:32]` (R306). -/
def Fd.paramHeight (f : Fd) : BitVec 16 := f.bparam.extractLsb' 32 16

/-- The IMAGE port's answer to the current block (R306). -/
def State.blockImageAnswer (s : State) : Bool :=
  s.imageAnswer s.fd.paramCode s.fd.paramWidth s.fd.paramHeight s.fd.dec

/-- The state after the current block has been given to the IMAGE port (R306). -/
def State.blockImageCalled (s : State) : State :=
  s.imageCalled s.fd.paramCode s.fd.paramWidth s.fd.paramHeight s.fd.dec

/-- A Gcode block's text: its decoded bytes, unpacked when the encoding is 1 or 2 (R306). -/
def State.gcodeText (s : State) : List Byte :=
  if s.fd.paramCode = 0#16 then s.fd.dec else mpDecode s.mpNlSkip s.fd.dec

/-- Content routing of a Gcode block (R306). -/
def fdRouteGcode (s : State) : FdAnswer :=
  if 2 < s.fd.paramCode.toNat then fdFatal .badEncoding s 0
  else if blockLimit < s.gcodeText.length then .refused .blockTooLong
  else fdDecoded ((s.withFd (s.fd.withRoute .text s.gcodeText)).deliver (.text s.gcodeText))

/-- Content routing of a Thumbnail block (R306). -/
def fdRouteThumbnail (s : State) : FdAnswer :=
  if s.fd.paramCode = 1#16 then fdFatal .unsupportedFormat s 0
  else if 2 < s.fd.paramCode.toNat then fdFatal .badFormat s 0
  else if s.blockImageAnswer then fdDecoded (s.blockImageCalled.withFd (s.fd.withRoute .image s.fd.dec))
  else fdFatal .ext s.blockImageCalled 0

/-- Content routing of a property block (R306). -/
def fdRouteProperty (s : State) : FdAnswer :=
  if s.fd.paramCode ≠ 0#16 then fdFatal .badEncoding s 0
  else fdDecoded ((s.withFd (s.fd.withRoute .ini s.fd.dec)).deliver (.ini s.fd.dec))

/-- Content routing, by block type (R306). -/
def fdRoute (s : State) : FdAnswer :=
  if s.fd.btype = 1#16 then fdRouteGcode s
  else if s.fd.btype = 5#16 then fdRouteThumbnail s
  else fdRouteProperty s

/-- Phase DECODE (R305, R306). -/
def fdDecode (s : State) : FdAnswer :=
  match s.decompressed with
  | .error code => fdFatal code s.afterDecompress 0
  | .ok d =>
    if blockLimit < d.length then .refused .blockTooLong
    else fdRoute (s.afterDecompress.withFd (s.fd.withDec d))

/-- Phase CRC (R307). -/
def fdCrc (s : State) : FdAnswer :=
  fdRead 4 .truncCrc s fun c t =>
    fdReturn
      (t.withFd { t.fd.appendRecord (le32 c 0 == t.fd.bcrc) (le32 c 0) t.fd.bcrc with phase := .blkHdr }) .ok 4

/-! ## Stepping -/

/-- One dispatcher step (R299). -/
def fdStep (s : State) : FdAnswer :=
  match s.fd.phase with
  | .idle => fdReturn s.setFdMisuse .misuse 0
  | .fileHdr => fdFileHdr s
  | .blkHdr => fdBlkHdr s
  | .blkCSize => fdBlkCSize s
  | .params => fdParams s
  | .payload => fdPayload s
  | .decode => fdDecode s
  | .crc => fdCrc s
  | .done => fdReturn s .done 0
  | .error => fdReturn s .fatal 0
  | .cancelled => fdReturn s .cancelled 0

/-- The loop of FD_RUN with `n` bytes consumed so far (R312). The fuel bounds the number of steps
(spec/70_reset_and_hazards.md R387; log entry 14). -/
def fdRunLoop : Nat → State → Nat → FdAnswer
  | 0, s, n => fdReturn s .wait n
  | fuel + 1, s, n =>
    match fdStep s with
    | .refused r => .refused r
    | .done d => if d.status = .ok then fdRunLoop fuel d.state (n + d.used) else fdReturn d.state d.status (n + d.used)

/-- Enough steps for any source: of three OK steps in a row at least one consumes a byte (R312). -/
def Fd.runFuel (f : Fd) : Nat := 3 * f.src.length + 4

/-- FD_RUN (R312). -/
def fdRun (s : State) : FdAnswer := fdRunLoop s.fd.runFuel s 0

/-- The response to a step or a run: its count is the bytes consumed modulo 2^32 (spec/30_encoding.md R95). -/
def fdRespond (a : FdAnswer) : Host.Outcome State Fault Refusal :=
  match a with
  | .done d => .next (d.state.reply d.status (BitVec.ofNat 32 d.used) [])
  | .refused r => .refused r

/-! ## Records -/

/-- The 36-byte descriptor of a block record (spec/30_encoding.md R116, spec/45_framing_dispatcher.md R311). -/
def BlockRecord.descriptor (r : BlockRecord) : List Byte :=
  leBytes 2 r.btype.toNat ++ leBytes 2 r.comp.toNat ++ leBytes 4 r.usize.toNat ++ leBytes 4 r.csize.toNat
    ++ leBytes 6 r.params.toNat ++ leBytes 2 r.ckKind.toNat
    ++ [(flagBit r.valid).setWidth 8, (flagBit r.sizeMismatch).setWidth 8, r.route.code, 0#8]
    ++ leBytes 4 r.storedCrc.toNat ++ leBytes 4 r.computedCrc.toNat ++ leBytes 4 r.decLen.toNat

/-- A block record as FD_RESULT returns it (spec/30_encoding.md R116). -/
def BlockRecord.bytes (r : BlockRecord) : List Byte := r.descriptor ++ r.routed

/-! ## The commands -/

/-- FD_START (R293). -/
def execFdStart (s : State) : Host.Outcome State Fault Refusal :=
  .next ((s.withFd Fd.started).reply .ok 0 [])

/-- FD_PUSH (R294). A source of 2^64 bytes or more since FD_START is refused (D51). -/
def execFdPush (din : List Byte) (s : State) : Host.Outcome State Fault Refusal :=
  if s.fd.phase.isActive = false ∨ s.fd.eof = true then .next s.raiseFdMisuse
  else if sourceLimit ≤ s.fd.cursor.toNat + s.fd.src.length + din.length then .refused .sourceTooLong
  else .next ((s.withFd { s.fd with src := s.fd.src ++ din }).reply .ok (BitVec.ofNat 32 din.length) [])

/-- FD_EOF (R295). -/
def execFdEof (s : State) : Host.Outcome State Fault Refusal :=
  if s.fd.phase.isActive = false ∨ s.fd.eof = true then .next s.raiseFdMisuse
  else .next ((s.withFd { s.fd with eof := true }).reply .ok 0 [])

/-- FD_STEP (R299). -/
def execFdStep (s : State) : Host.Outcome State Fault Refusal := fdRespond (fdStep s)

/-- FD_ABORT (R296). -/
def execFdAbort (s : State) : Host.Outcome State Fault Refusal :=
  .next ((s.withFd { s.fd with abortReq := s.fd.abortReq || s.fd.phase.isActive }).reply .ok 0 [])

/-- FD_RESULT (R314). -/
def execFdResult (i : BitVec 24) (s : State) : Host.Outcome State Fault Refusal :=
  if s.fd.phase ≠ .done ∨ s.fd.nblocks.toNat ≤ i.toNat then .next s.raiseFdMisuse
  else
    match s.fd.results[i.toNat]? with
    | some r => .next (s.reply .ok (BitVec.ofNat 32 r.bytes.length) r.bytes)
    | none => .next s.raiseFdMisuse

/-- FD_RUN (R312). -/
def execFdRun (s : State) : Host.Outcome State Fault Refusal := fdRespond (fdRun s)

end Sys2Proof.Machine
end

