-- ==== Sys2Proof/Machine/Hse.lean ====
section
/-! DEFINITION. The HSE unit (spec/43_heatshrink_encoder.md): the streaming Heatshrink encoder, its match search, and
the pure encoder `hs_encode` (R214). -/

namespace Sys2Proof.Machine

/-! ## The match search (R212, R216) -/

/-- The break-even threshold `T = (1 + W + L) div 8` (R212). -/
def breakEven (w l : Nat) : Nat := (1 + w + l) / 8

/-- The inner loop of `find` (R216): how many bytes, `m` of them already counted and at most `n` more, agree at offset
`o` before position `p`. The sequence `S` is given by its byte at each position. -/
def matchLen (S : Nat → Byte) (p o : Nat) : Nat → Nat → Nat
  | 0, m => m
  | n + 1, m => if S (p - o + m) = S (p + m) then matchLen S p o n (m + 1) else m

/-- A match: its length and its offset. -/
structure Match where
  len : Nat
  off : Nat
deriving DecidableEq, Repr

/-- The better of a match found before and one of `m` bytes at offset `o`: strictly longer wins (R216). -/
def Match.orBetter (best : Match) (m o : Nat) : Match := if best.len < m then ⟨m, o⟩ else best

/-- The outer loop of `find` (R216): `n` offsets from `o` on, nearest first; strictly longer wins. -/
def findLoop (S : Nat → Byte) (p maxlen : Nat) : Nat → Nat → Match → Match
  | 0, _, best => best
  | n + 1, o, best =>
    findLoop S p maxlen n (o + 1) (best.orBetter (matchLen S p o maxlen 0) o)

/-- `find(S, p, maxlen)` (R216), over the offsets 1 to 2^W. -/
def findMatch (w : Nat) (S : Nat → Byte) (p maxlen : Nat) : Match :=
  findLoop S p maxlen (2 ^ w) 1 ⟨0, 0⟩

/-! ## The pure encoder (R214) -/

/-- `[0x00 repeated 2^W] ++ x` by position (R214). -/
def zeroHistory (w : Nat) (x : List Byte) (i : Nat) : Byte :=
  if i < 2 ^ w then 0#8 else x.getD (i - 2 ^ w) 0#8

/-- The bits of a literal token (spec/30_encoding.md R111). -/
def literalBits (b : Byte) : List Bool := true :: bitsOfNat 8 b.toNat

/-- The bits of a backreference token (spec/30_encoding.md R112). -/
def backrefBits (w l : Nat) (m : Match) : List Bool :=
  false :: (bitsOfNat w (m.off - 1) ++ bitsOfNat l (m.len - 1))

/-- The match `hs_encode` chooses from at `p = 2^W + k` (R214). -/
def hsBestMatch (w l c : Nat) (x : List Byte) (k : Nat) : Match :=
  findMatch w (zeroHistory w x) (2 ^ w + k) (min (min (2 ^ l) c) (x.length - k))

/-- The loop of `hs_encode` (R214) with `p = 2^W + k`: each iteration encodes at least one of the `|x| - k` bytes left, so
`|x|` iterations are enough (log entry 14). -/
def hsEncodeLoop (w l c : Nat) (x : List Byte) : Nat → Nat → List Bool
  | 0, _ => []
  | fuel + 1, k =>
    if k < x.length then
      if breakEven w l < (hsBestMatch w l c x k).len then
        backrefBits w l (hsBestMatch w l c x k) ++ hsEncodeLoop w l c x fuel (k + (hsBestMatch w l c x k).len)
      else literalBits (x.getD k 0#8) ++ hsEncodeLoop w l c x fuel (k + 1)
    else []

/-- `hs_encode(W, L, C, x)` (R214). -/
def hsEncode (w l c : Nat) (x : List Byte) : List Byte := packBits (hsEncodeLoop w l c x x.length 0)

/-! ## The streaming unit -/

/-- `2^W`, the size of the history (spec/10_state.md R41). -/
def Hse.size (u : Hse) : Nat := 2 ^ u.w.toNat

/-- `HIST ++ Q` by position (R217). -/
def Hse.stream (u : Hse) (i : Nat) : Byte :=
  if i < u.size then memRead u.hist i else u.q.getD (i - u.size) 0#8

/-- `encoder_reset()` (R220). -/
def Hse.encoderReset (u : Hse) : Hse :=
  { u with hist := [], q := [], nbits := 0, obits := 0, finishing := false, misuse := false }

/-- `can_scan()` (R219). -/
def Hse.canScan (u : Hse) : Bool :=
  decide (1 ≤ u.q.length) && (u.finishing || decide (min (2 ^ u.l.toNat) u.inCap.toNat ≤ u.q.length))

/-- `put_bits(v, k)` (R217). -/
def Hse.putBits (u : Hse) (v k : Nat) : Hse :=
  { u with obits := (u.obits <<< k) ||| BitVec.ofNat 37 v, nbits := u.nbits + BitVec.ofNat 6 k }

/-- The first `n` bytes of Q moved into HIST (R217, spec/20_memory.md R72). -/
def Hse.advance (u : Hse) (n : Nat) : Hse :=
  { u with hist := memShiftAll u.size u.hist (u.q.take n), q := u.q.drop n }

/-- The match `encode_token` chooses from (R217). -/
def Hse.bestMatch (u : Hse) : Match :=
  findMatch u.w.toNat u.stream u.size (min (2 ^ u.l.toNat) u.q.length)

/-- `encode_token()` (R217). -/
def Hse.encodeToken (u : Hse) : Hse :=
  if breakEven u.w.toNat u.l.toNat < u.bestMatch.len then
    (((u.putBits 0 1).putBits (u.bestMatch.off - 1) u.w.toNat).putBits (u.bestMatch.len - 1) u.l.toNat).advance
      u.bestMatch.len
  else ((u.putBits 1 1).putBits (u.q.headD 0#8).toNat 8).advance 1

/-- The next output byte, `OBITS[NBITS-1 : NBITS-8]` (R218). -/
def Hse.outByte (u : Hse) : Byte := BitVec.ofNat 8 (u.obits.toNat / 2 ^ (u.nbits.toNat - 8))

/-- The unit after the next output byte has been taken (R218). -/
def Hse.afterByte (u : Hse) : Hse :=
  { u with nbits := u.nbits - 8#6, obits := BitVec.ofNat 37 (u.obits.toNat % 2 ^ (u.nbits.toNat - 8)) }

/-- The final partial byte, `(OBITS << (8 - NBITS))[7:0]` (R218). -/
def Hse.lastByte (u : Hse) : Byte := BitVec.ofNat 8 (u.obits.toNat * 2 ^ (8 - u.nbits.toNat))

/-- The unit after the final partial byte (R218). -/
def Hse.afterLast (u : Hse) : Hse := { u with nbits := 0#6, obits := 0#37 }

/-- The final partial byte is due: `FINISHING = 1 and |Q| = 0 and NBITS > 0` (R221). -/
def Hse.lastDue (u : Hse) : Bool := u.finishing && u.q.isEmpty && decide (0 < u.nbits.toNat)

/-- What HSE_POLL leaves: the unit, the status and the bytes it output. -/
structure HsePolled where
  unit : Hse
  status : Status
  dout : List Byte
deriving DecidableEq, Repr

/-- A byte output before the rest. -/
def HsePolled.after (c : Byte) (r : HsePolled) : HsePolled := ⟨r.unit, r.status, c :: r.dout⟩

/-- The loop of HSE_POLL with `room = OUT_CAP - |dout|` (R221). The fuel bounds the number of iterations
(spec/70_reset_and_hazards.md R387; log entry 14). -/
def hsePollLoop : Nat → Nat → Hse → HsePolled
  | 0, _, u => ⟨u, .empty, []⟩
  | fuel + 1, room, u =>
    if 8 ≤ u.nbits.toNat then
      if room = 0 then ⟨u, .more, []⟩
      else (hsePollLoop fuel (room - 1) u.afterByte).after u.outByte
    else if u.canScan then hsePollLoop fuel room u.encodeToken
    else if u.lastDue then
      if room = 0 then ⟨u, .more, []⟩
      else (hsePollLoop fuel (room - 1) u.afterLast).after u.lastByte
    else ⟨u, .empty, []⟩

/-- Enough iterations for any unit: each outputs a byte or removes at least one byte from Q (R221). -/
def Hse.pollFuel (u : Hse) : Nat := u.outCap.toNat + u.q.length + 1

/-- HSE_POLL of a configured unit (R221). -/
def Hse.poll (u : Hse) : HsePolled := hsePollLoop u.pollFuel u.outCap.toNat u

/-- HSE_CFG (R213). -/
def execHseCfg (w l : BitVec 4) (inCap outCap : BitVec 32) (s : State) : Host.Outcome State Fault Refusal :=
  if cfgLegal w l inCap outCap then
    .next ({ s with
      hse := { s.hse with cfgd := true, w := w, l := l, inCap := inCap, outCap := outCap }.encoderReset }.reply .ok 0 [])
  else .next ({ s with hse := Hse.cleared }.reply .range 0 [])

/-- HSE_SINK (R215). -/
def execHseSink (din : List Byte) (s : State) : Host.Outcome State Fault Refusal :=
  if s.hse.cfgd = false ∨ s.hse.finishing = true then .next s.raiseHseMisuse
  else if sinkRoom s.hse.inCap s.hse.q = 0 then .next (s.reply .full 0 [])
  else
    .next ({ s with hse := { s.hse with q := s.hse.q ++ sinkTaken s.hse.inCap s.hse.q din } }.reply .ok
      (BitVec.ofNat 32 (sinkTaken s.hse.inCap s.hse.q din).length) [])

/-- HSE_POLL (R221). -/
def execHsePoll (s : State) : Host.Outcome State Fault Refusal :=
  if s.hse.cfgd = false then .next s.raiseHseMisuse
  else
    .next ({ s with hse := s.hse.poll.unit }.reply s.hse.poll.status
      (BitVec.ofNat 32 s.hse.poll.dout.length) s.hse.poll.dout)

/-- HSE_FINISH (R222). -/
def execHseFinish (s : State) : Host.Outcome State Fault Refusal :=
  if s.hse.cfgd = false then .next s.raiseHseMisuse
  else
    .next ({ s with hse := { s.hse with finishing := true } }.reply
      (if { s.hse with finishing := true }.done then .done else .more) 0 [])

/-- HSE_RESET (R220). -/
def execHseReset (s : State) : Host.Outcome State Fault Refusal :=
  if s.hse.cfgd = false then .next s.raiseHseMisuse
  else .next ({ s with hse := s.hse.encoderReset }.reply .ok 0 [])

end Sys2Proof.Machine
end

