-- ==== Sys2Proof/Machine/Sys.lean ====
section
/-! DEFINITION. The SYS unit (spec/40_sys.md): NOP, RESET_ALL, RDREG and the value of every register. -/

namespace Sys2Proof.Machine

/-- SYS_ID, a constant (spec/10_state.md R21). -/
def sysId : BitVec 32 := 0x31434453#32

/-- The value of a register (spec/10_state.md R20), zero-extended to 64 bits (spec/30_encoding.md R98). -/
def regValue (r : Reg) (s : State) : BitVec 64 :=
  match r with
  | .sysId => sysId.setWidth 64
  | .crcAcc => s.crcAcc.setWidth 64
  | .hsdCfg => (cfgWord s.hsd.cfgd s.hsd.l s.hsd.w).setWidth 64
  | .hsdInCap => s.hsd.inCap.setWidth 64
  | .hsdOutCap => s.hsd.outCap.setWidth 64
  | .hsdStat => s.hsd.stat.setWidth 64
  | .hsdInLvl => (BitVec.ofNat 32 s.hsd.inq.length).setWidth 64
  | .hsdBitReg => s.hsd.bitReg.setWidth 64
  | .hsdHead => s.hsd.head.setWidth 64
  | .hsdIndex => s.hsd.index.setWidth 64
  | .hsdCount => s.hsd.count.setWidth 64
  | .hseCfg => (cfgWord s.hse.cfgd s.hse.l s.hse.w).setWidth 64
  | .hseInCap => s.hse.inCap.setWidth 64
  | .hseOutCap => s.hse.outCap.setWidth 64
  | .hseStat => s.hse.stat.setWidth 64
  | .hseQLvl => (BitVec.ofNat 32 s.hse.q.length).setWidth 64
  | .hseNBits => s.hse.nbits.setWidth 64
  | .hseOBits => s.hse.obits.setWidth 64
  | .mpStat => s.mpu.stat.setWidth 64
  | .mpCharBuf => s.mpu.charBuf.setWidth 64
  | .mpLast => s.mpu.last.setWidth 64
  | .mpOutLen => s.mpu.outLen.setWidth 64
  | .fdPhase => s.fd.phase.code.setWidth 64
  | .fdCursor => s.fd.cursor
  | .fdMagic => s.fd.magic.setWidth 64
  | .fdVersion => s.fd.version.setWidth 64
  | .fdCkKind => s.fd.ckKind.setWidth 64
  | .fdNBlocks => s.fd.nblocks.setWidth 64
  | .fdError => s.fd.error.code.setWidth 64
  | .fdFlags => s.fd.flags.setWidth 64
  | .fdSrcLvl => s.fd.srcLvl
  | .fdBTypeComp => s.fd.btypeComp.setWidth 64
  | .fdBUSize => s.fd.busize.setWidth 64
  | .fdBCSize => s.fd.bcsize.setWidth 64
  | .fdBParam => s.fd.bparam.setWidth 64
  | .fdBCrc => s.fd.bcrc.setWidth 64

/-- NOP (spec/40_sys.md R132). -/
def execNop (s : State) : Host.Outcome State Fault Refusal := .next (s.reply .ok 0 [])

/-- RESET_ALL (spec/40_sys.md R134). -/
def execResetAll (s : State) : Host.Outcome State Fault Refusal := .next (s.resetUnits.reply .ok 0 [])

/-- RDREG of an assigned register (spec/40_sys.md R133). -/
def execRdreg (r : Reg) (s : State) : Host.Outcome State Fault Refusal :=
  .next (s.reply .ok 8 (leBytes 8 (regValue r s).toNat))

end Sys2Proof.Machine
end

