-- ==== Sys2Proof/Machine/Dispatch.lean ====
section
/-! DEFINITION. The dispatch of spec/40_sys.md R131: one arm per instruction of spec/opcode_table.json. -/

namespace Sys2Proof.Machine

def exec (i : Instr) (s : State) : Host.Outcome State Fault Refusal :=
  match i with
  | .nop => Sys2Proof.Machine.execNop s
  | .resetAll => Sys2Proof.Machine.execResetAll s
  | .rdreg r => Sys2Proof.Machine.execRdreg r s
  | .crcClear => Sys2Proof.Machine.execCrcClear s
  | .crcLoad v => Sys2Proof.Machine.execCrcLoad v s
  | .crcByte b => Sys2Proof.Machine.execCrcByte b s
  | .crcSpan din => Sys2Proof.Machine.execCrcSpan din s
  | .crcRead => Sys2Proof.Machine.execCrcRead s
  | .hsdCfg w l inCap outCap => Sys2Proof.Machine.execHsdCfg w l inCap outCap s
  | .hsdSink din => Sys2Proof.Machine.execHsdSink din s
  | .hsdPoll => Sys2Proof.Machine.execHsdPoll s
  | .hsdFinish => Sys2Proof.Machine.execHsdFinish s
  | .hsdReset => Sys2Proof.Machine.execHsdReset s
  | .hseCfg w l inCap outCap => Sys2Proof.Machine.execHseCfg w l inCap outCap s
  | .hseSink din => Sys2Proof.Machine.execHseSink din s
  | .hsePoll => Sys2Proof.Machine.execHsePoll s
  | .hseFinish => Sys2Proof.Machine.execHseFinish s
  | .hseReset => Sys2Proof.Machine.execHseReset s
  | .mpReset => Sys2Proof.Machine.execMpReset s
  | .mpFeed din => Sys2Proof.Machine.execMpFeed din s
  | .fdStart => Sys2Proof.Machine.execFdStart s
  | .fdPush din => Sys2Proof.Machine.execFdPush din s
  | .fdEof => Sys2Proof.Machine.execFdEof s
  | .fdStep => Sys2Proof.Machine.execFdStep s
  | .fdAbort => Sys2Proof.Machine.execFdAbort s
  | .fdResult n => Sys2Proof.Machine.execFdResult n s
  | .fdRun => Sys2Proof.Machine.execFdRun s

end Sys2Proof.Machine
end

