-- ==== Sys2Proof/Machine/Cycle.lean ====
section
/-! DEFINITION. The command cycle (spec/40_sys.md R130, R131): taking the host's next command, decoding it, and executing
it or answering ILLEGAL. -/

namespace Sys2Proof.Machine

/-- `execute(word, din)` (spec/40_sys.md R131): the ILLEGAL test comes before everything else. -/
def execute (c : Command) (s : State) : Host.Outcome State Fault Refusal :=
  match decode c with
  | .ok i => exec i s
  | .error _ => .next s.raiseIllegal

/-- The host has issued a command: `rest` is what it has yet to issue. -/
def State.issued (s : State) (rest : List Command) : State := { s with host := { s.host with pending := rest } }

/-- The host's next command, executed as one atomic step (spec/40_sys.md R130). With no command to issue nothing
happens (log entry 1). -/
def runNext (s : State) : Host.Outcome State Fault Refusal :=
  match s.host.pending with
  | [] => .next s
  | c :: rest => execute c (s.issued rest)

/-- The host's next command will be `c`. -/
def State.willIssue (s : State) (c : Command) : State := s.issued (c :: s.host.pending)

end Sys2Proof.Machine
end

