-- ==== Sys2Proof/Machine/Step.lean ====
section
/-! DEFINITION. The step of SDCORE, and where a test places the instruction the next step runs. -/

namespace Sys2Proof.Machine

/-- One step: the host's next command (spec/40_sys.md R130, R131). -/
def step (s : State) : Host.Outcome State Fault Refusal := runNext s

/-- `s` with the command that the bits `w` of a row of spec/opcode_table.json stand for as the very next one the host
issues (log entries 18 and 19). -/
def State.withFetchWord (s : State) (nbits w : Nat) : State := s.willIssue (tableCommand nbits w)

end Sys2Proof.Machine
end

