-- ==== Sys2Proof/Safety.lean ====
section
/-! DEFINITION. What a safe state is, in the terms the statements use: the clean state and the fault record of
spec/70_reset_and_hazards.md R392, and the invariant of each unit, clause by clause from spec/10_state.md. -/

namespace Sys2Proof.Machine

/-- `clean(S)`: every unit in its reset state (spec/70_reset_and_hazards.md R392). -/
def State.Clean (s : State) : Prop :=
  s.crcAcc = 0#32 ∧ s.hsd = Hsd.cleared ∧ s.hse = Hse.cleared ∧ s.mpu = Mpu.cleared ∧ s.fd = Fd.cleared

/-- "No fault recorded" (spec/70_reset_and_hazards.md R392, spec/60_exceptions.md R364). -/
def State.NoFaultRecorded (s : State) : Prop :=
  s.hsd.misuse = false ∧ s.hse.misuse = false ∧ s.fd.misuse = false ∧ s.fd.error = .none ∧
    ∀ r ∈ s.host.responses, r.status ≠ .illegal

/-- The legal configurations of a codec unit, in numbers (spec/10_state.md R24 to R26). -/
def ConfigLegal (w l : BitVec 4) (inCap outCap : BitVec 32) : Prop :=
  4 ≤ w.toNat ∧ 3 ≤ l.toNat ∧ l.toNat < w.toNat ∧ 1 ≤ inCap.toNat ∧ 1 ≤ outCap.toNat

/-- The invariant of HSD. -/
structure Hsd.Inv (u : Hsd) : Prop where
  /-- Unconfigured, every register but MISUSE is 0 and nothing is held (R24, R33, R62). -/
  unconfigured : u.cfgd = false → u = { Hsd.cleared with misuse := u.misuse }
  /-- Configured, the configuration is legal (R24, R25, R26). -/
  configured : u.cfgd = true → ConfigLegal u.w u.l u.inCap u.outCap
  /-- `HSD.INQ` holds at most IN_CAP bytes (R28). -/
  queue : u.inq.length ≤ u.inCap.toNat
  /-- LEFT is 0 to 8 (R29). -/
  left_le : u.left.toNat ≤ 8
  /-- IDX_HI is entered only when W > 8 (spec/42_heatshrink_decoder.md R172). -/
  idxHi : u.dstate = .idxHi → 8 < u.w.toNat
  /-- In IDX_LO, INDEX holds the high offset bits shifted left by 8 (R31). -/
  idxLo : u.dstate = .idxLo → u.index.toNat % 256 = 0 ∧ u.index.toNat < 2 ^ u.w.toNat
  /-- From CNT_HI on, INDEX is an offset, 1 to 2^W (R31). -/
  offset : u.dstate = .cntHi ∨ u.dstate = .cntLo ∨ u.dstate = .copy →
    1 ≤ u.index.toNat ∧ u.index.toNat ≤ 2 ^ u.w.toNat
  /-- CNT_HI is entered only when L > 8 (spec/42_heatshrink_decoder.md R172). -/
  cntHi : u.dstate = .cntHi → 8 < u.l.toNat
  /-- In CNT_LO, COUNT holds the high length bits shifted left by 8 (R32). -/
  cntLo : u.dstate = .cntLo → u.count.toNat % 256 = 0 ∧ u.count.toNat < 2 ^ u.l.toNat
  /-- In COPY, COUNT is the number of bytes still to copy, 1 to 2^L (R32). -/
  copy : u.dstate = .copy → 1 ≤ u.count.toNat ∧ u.count.toNat ≤ 2 ^ u.l.toNat
  /-- `HSD.DICT` is in canonical form, within its 2^W bytes (R33). -/
  dict_wf : Memory.wf u.size u.dict

/-- The invariant of HSE. -/
structure Hse.Inv (u : Hse) : Prop where
  /-- Unconfigured, every register but MISUSE is 0 and nothing is held (R34, R41, R62). -/
  unconfigured : u.cfgd = false → u = { Hse.cleared with misuse := u.misuse }
  /-- Configured, the configuration is legal (R34, R35, R36). -/
  configured : u.cfgd = true → ConfigLegal u.w u.l u.inCap u.outCap
  /-- `HSE.Q` holds at most IN_CAP bytes (R38). -/
  queue : u.q.length ≤ u.inCap.toNat
  /-- At most 37 bits are pending (R39). -/
  nbits_le : u.nbits.toNat ≤ 37
  /-- OBITS has no bit at or above NBITS (R40). -/
  obits_lt : u.obits.toNat < 2 ^ u.nbits.toNat
  /-- `HSE.HIST` is in canonical form, within its 2^W bytes (R41). -/
  hist_wf : Memory.wf u.size u.hist

/-- The invariant of MPU. -/
structure Mpu.Inv (m : Mpu) : Prop where
  /-- FCQ is 0 to 2; value 3 is never held (R42). -/
  fcq_le : m.fcq.toNat ≤ 2
  /-- A character is held only while one full character is awaited (spec/44_meatpack.md R259). -/
  held : m.charBuf ≠ 0#8 → m.fcq = 1#2
  /-- Nothing output: LAST is 0 and so is OUTLEN (R44, R45). -/
  nothingOut : m.nonempty = false → m.last = 0#8 ∧ m.outLen = 0#32

/-- The phases in which a block header has been read and accepted (spec/45_framing_dispatcher.md R301). -/
abbrev Phase.inBlock (p : Phase) : Prop :=
  p = .blkCSize ∨ p = .params ∨ p = .payload ∨ p = .decode ∨ p = .crc

/-- The invariant of FD. -/
structure Fd.Inv (f : Fd) : Prop where
  /-- Idle, every register but MISUSE is 0 and nothing is held (R46, R381). -/
  idle : f.phase = .idle → f = { Fd.cleared with misuse := f.misuse }
  /-- The source since FD_START is shorter than 2^64 bytes (R47, R54, D51). -/
  source : f.cursor.toNat + f.src.length < sourceLimit
  /-- FD_ERROR is not NONE exactly in the phase ERROR (spec/60_exceptions.md R356). -/
  error_iff : f.error ≠ .none ↔ f.phase = .error
  /-- Inside a block the type and the compression code are ones R301 accepted, and the file header has been read. -/
  inBlock : f.phase.inBlock → f.btype.toNat ≤ 5 ∧ f.comp.toNat ≤ 3 ∧ f.hdrDone = true
  /-- At a block boundary, and where it leads, the file header has been read (spec/45_framing_dispatcher.md R300). -/
  hdrDone : f.phase = .blkHdr ∨ f.phase = .done ∨ f.phase = .cancelled → f.hdrDone = true
  /-- At and past the first block boundary the checksum kind is 0 or 1 (spec/45_framing_dispatcher.md R300). -/
  ckKind : f.phase = .blkHdr ∨ f.phase.inBlock ∨ f.phase = .done → f.ckKind.toNat ≤ 1
  /-- BLK_CSIZE only for a compressed block (spec/45_framing_dispatcher.md R302). -/
  csize : f.phase = .blkCSize → f.comp ≠ 0#16
  /-- Past it, an uncompressed block has compressed size 0 (R57). -/
  bcsize : f.phase.inBlock → f.comp = 0#16 → f.bcsize = 0#32
  /-- `FD.PAY` is empty outside a block's decoding (R60). -/
  pay : f.phase ≠ .decode → f.phase ≠ .crc → f.pay = []
  /-- `FD.DEC` and `FD.ROUTE` are empty but between DECODE and CRC (R60). -/
  routed : f.phase ≠ .crc → f.dec = [] ∧ f.route = []
  /-- The phase CRC is entered only with checksum kind 1 (spec/45_framing_dispatcher.md R307). -/
  crc : f.phase = .crc → f.ckKind = 1#16
  /-- The blocks held fit their descriptors (D60). -/
  blockFits : f.dec.length ≤ blockLimit ∧ f.route.length ≤ blockLimit
  /-- The records held fit their responses (D60). -/
  recordsFit : ∀ r ∈ f.results, r.routed.length ≤ blockLimit
  /-- No record before the file header, after a fatal error or after a cancellation (R356, R358). -/
  records : f.phase = .idle ∨ f.phase = .fileHdr ∨ f.phase = .error ∨ f.phase = .cancelled → f.results = []
  /-- The parse is DONE only at the end of the source (spec/45_framing_dispatcher.md R301). -/
  done : f.phase = .done → f.eof = true ∧ f.src = []

/-- The invariant of the machine. -/
structure State.Inv (s : State) : Prop where
  hsd : s.hsd.Inv
  hse : s.hse.Inv
  mpu : s.mpu.Inv
  fd : s.fd.Inv

end Sys2Proof.Machine
end

