-- ==== Sys2Proof/Certificates/Slice0/Obligations.lean ====
section
/-! DEFINITION. The statements for the provers: the numbered rules of spec/ about SDCORE, said of `exec`, `execute` and
`step`. The definitions under `Sys2Proof.Claims` say what the rules say in their own words: an answer, a malformed
command, a run of HSD_POLL. -/

namespace Sys2Proof.Claims

open Sys2Proof.Machine

/-! ## Answers -/

/-- What a command can answer. -/
abbrev Answer := Host.Outcome State Fault Refusal

/-- The state `t`, its response `(st, n, d)` appended (spec/30_encoding.md R90). -/
def answer (t : State) (st : Status) (n : Nat) (d : List Byte) : Answer :=
  .next { t with host := { t.host with responses := t.host.responses ++ [⟨st, BitVec.ofNat 32 n, d⟩] } }

/-- ILLEGAL, count 0, empty dout, and no state change (spec/30_encoding.md R97). -/
def illegal (s : State) : Answer := answer s .illegal 0 []

/-- The command with UNIT and OP `o`, IMM `imm` and operand `din` (spec/30_encoding.md R91). -/
def cmd (o : BitVec 8) (imm : BitVec 24) (din : List Byte) : Command := ⟨o ++ imm, din⟩

/-- Encoding and ILLEGAL cases of a command without operands: IMM 0 and empty din. -/
def EncodedBare (o : BitVec 8) (i : Instr) : Prop :=
  ∀ imm din s, execute (cmd o imm din) s = if imm = 0#24 ∧ din = [] then exec i s else illegal s

/-- Encoding and ILLEGAL cases of a command whose operand is all of din, 0 to 2^32-1 bytes. -/
def EncodedAny (o : BitVec 8) (i : List Byte → Instr) : Prop :=
  ∀ imm din s, din.length < 2 ^ 32 →
    execute (cmd o imm din) s = if imm = 0#24 then exec (i din) s else illegal s

/-- Encoding and ILLEGAL cases of a codec configuration: W = IMM[3:0], L = IMM[7:4], the rest of IMM 0, and 8 bytes. -/
def EncodedCfg (o : BitVec 8) (i : BitVec 4 → BitVec 4 → BitVec 32 → BitVec 32 → Instr) : Prop :=
  ∀ imm din s, execute (cmd o imm din) s =
    if imm.toNat < 256 ∧ din.length = 8 then
      exec (i (BitVec.ofNat 4 imm.toNat) (BitVec.ofNat 4 (imm.toNat / 16)) (le32 din 0) (le32 din 4)) s
    else illegal s

/-- The (UNIT, OP) pairs that are assigned, UNIT * 16 + OP (spec/30_encoding.md R92). -/
def Assigned (o : Nat) : Prop :=
  o ≤ 0x02 ∨ (0x10 ≤ o ∧ o ≤ 0x14) ∨ (0x20 ≤ o ∧ o ≤ 0x24) ∨ (0x30 ≤ o ∧ o ≤ 0x34) ∨ (0x40 ≤ o ∧ o ≤ 0x41) ∨
    (0x50 ≤ o ∧ o ≤ 0x56)

/-- How many low bits of IMM a command uses (spec/30_encoding.md R92, R97(c)). -/
def immUsed (o : Nat) : Nat :=
  if o = 0x02 then 12 else if o = 0x12 ∨ o = 0x20 ∨ o = 0x30 then 8 else if o = 0x55 then 24 else 0

/-- The lengths of din a command takes (spec/30_encoding.md R94, R97(d)). -/
def DinRight (o len : Nat) : Prop :=
  (o = 0x11 ∧ len = 4) ∨ ((o = 0x20 ∨ o = 0x30) ∧ len = 8) ∨ o ∈ [0x13, 0x21, 0x31, 0x41, 0x51] ∨
    (o ∉ [0x11, 0x20, 0x30] ∧ len = 0)

/-- The numbers that the table of spec/10_state.md R20 assigns. -/
def registerNumbers : List Nat :=
  [0x000, 0x100, 0x200, 0x201, 0x202, 0x203, 0x204, 0x205, 0x206, 0x207, 0x208, 0x300, 0x301, 0x302, 0x303, 0x304,
   0x305, 0x306, 0x400, 0x401, 0x402, 0x403, 0x500, 0x501, 0x502, 0x503, 0x504, 0x505, 0x506, 0x507, 0x508, 0x509,
   0x50A, 0x50B, 0x50C, 0x50D]

/-- A malformed command, clauses (a) to (e) of spec/30_encoding.md R97, with `o` its UNIT and OP and `imm` its IMM. -/
def Malformed (o imm : Nat) (din : List Byte) : Prop :=
  0x60 ≤ o ∨ ¬ Assigned o ∨ 2 ^ immUsed o ≤ imm ∨ ¬ DinRight o din.length ∨ (o = 0x02 ∧ imm ∉ registerNumbers)

/-! ## Units -/

/-- The units of spec/00_scope.md R2. -/
inductive Unit6
  | sys | crc | hsd | hse | mpu | fd
deriving DecidableEq, Repr

/-- The unit a command names (spec/30_encoding.md R92). -/
def unitOf : Instr → Unit6
  | .nop | .resetAll | .rdreg _ => .sys
  | .crcClear | .crcLoad _ | .crcByte _ | .crcSpan _ | .crcRead => .crc
  | .hsdCfg _ _ _ _ | .hsdSink _ | .hsdPoll | .hsdFinish | .hsdReset => .hsd
  | .hseCfg _ _ _ _ | .hseSink _ | .hsePoll | .hseFinish | .hseReset => .hse
  | .mpReset | .mpFeed _ => .mpu
  | .fdStart | .fdPush _ | .fdEof | .fdStep | .fdAbort | .fdResult _ | .fdRun => .fd

/-- A flag as a number. -/
def bit (b : Bool) : Nat := if b then 1 else 0

/-! ## CRC -/

/-- One bit of the CRC update (spec/41_crc.md R151). -/
def crcShift (c : BitVec 32) : BitVec 32 := if c.toNat % 2 = 1 then (c >>> 1) ^^^ 0xEDB88320#32 else c >>> 1

/-- One byte of the CRC update: eight shifts (spec/41_crc.md R151). -/
def crcEat (c : BitVec 32) (b : Byte) : BitVec 32 :=
  (List.range 8).foldl (fun c _ => crcShift c) (c ^^^ b.setWidth 32)

/-! ## The unpacker -/

/-- Nothing output (spec/44_meatpack.md R257). -/
def quiet (m : Mpu) : MpOut := ⟨m, []⟩

/-- One part of the unpacker's work after another, their outputs in order. -/
def seq (a : MpOut) (f : Mpu → MpOut) : MpOut := ⟨(f a.unit).unit, a.dout ++ (f a.unit).dout⟩

/-- `mp_byte(c)` (spec/44_meatpack.md R257). -/
def ByteRule (nl : Bool) (c : Byte) (m : Mpu) : Prop :=
  m.byte nl c =
    if c = 0xFF#8 then
      if m.cmdCount = true then quiet { m with cmdActive := true, cmdCount := false }
      else quiet { m with cmdCount := true }
    else if m.cmdActive = true then quiet { m.command c with cmdActive := false }
    else if m.cmdCount = true then seq (m.rx nl 0xFF#8) fun m1 => Mpu.rx nl c { m1 with cmdCount := false }
    else m.rx nl c

/-- `rx(c)` (spec/44_meatpack.md R258). -/
def RxRule (nl : Bool) (c : Byte) (m : Mpu) : Prop :=
  m.rx nl c =
    if m.packing = false then m.emit c
    else if 0 < m.fcq.toNat then
      seq (m.emit c) fun m1 =>
        if m1.charBuf ≠ 0#8 then
          seq (m1.emit m1.charBuf) fun m2 => quiet { m2 with charBuf := 0, fcq := m2.fcq - 1 }
        else quiet { m1 with fcq := m1.fcq - 1 }
    else m.unpack nl c

/-- `unpack(c)`, with MP_NL_SKIP `nl` (spec/44_meatpack.md R259, R264). -/
def UnpackRule (nl : Bool) (c : Byte) (m : Mpu) : Prop :=
  let lo := c.toNat % 16
  let hi := c.toNat / 16
  m.unpack nl c =
    if lo = 15 then
      if hi = 15 then quiet { m with fcq := m.fcq + 2 }
      else quiet { m with fcq := m.fcq + 1, charBuf := m.sym (BitVec.ofNat 4 hi) }
    else
      seq (m.emit (m.sym (BitVec.ofNat 4 lo))) fun m1 =>
        if nl = true ∧ m.sym (BitVec.ofNat 4 lo) = 0x0A#8 then quiet m1
        else if hi = 15 then quiet { m1 with fcq := m1.fcq + 1 }
        else m1.emit (m1.sym (BitVec.ofNat 4 hi))

/-! ## The codecs -/

/-- The bits the decoder has not read: the LEFT low bits of CUR, then the queue, MSB-first
(spec/42_heatshrink_decoder.md R172, R175). -/
def pendingBits (u : Hsd) : List Bool := bitsOfNat u.left.toNat u.cur.toNat ++ bitsOfBytes u.inq

/-- Bits as a number, the first the most significant (spec/00_scope.md R10). -/
def bitsValue (bits : List Bool) : Nat := bits.foldl (fun v b => 2 * v + bit b) 0

/-- The bits each state needs (spec/42_heatshrink_decoder.md R172). -/
def needed (d : DState) (w l : Nat) : Nat :=
  match d with
  | .tag => 1
  | .lit => 8
  | .idxHi => w - 8
  | .idxLo => min w 8
  | .cntHi => l - 8
  | .cntLo => min l 8
  | .copy => 0

/-- `step()` and `copy_step()` by state (spec/42_heatshrink_decoder.md R176), over `take` and `put` (R175). -/
def StepRule (u : Hsd) : Prop :=
  (u.dstate = .tag → u.step =
    if u.takeValue 1 = 1 then { u.taken 1 with dstate := .lit }
    else { u.taken 1 with index := 0, dstate := if 8 < u.w.toNat then .idxHi else .idxLo }) ∧
  (u.dstate = .lit → u.litByte.toNat = u.takeValue 8 ∧
    u.step = { (u.taken 8).put u.litByte with dstate := .tag }) ∧
  (u.dstate = .idxHi → u.step = { u.taken (u.w.toNat - 8) with
    index := BitVec.ofNat 16 (u.takeValue (u.w.toNat - 8) * 256), dstate := .idxLo }) ∧
  (u.dstate = .idxLo → u.step = { u.taken (min u.w.toNat 8) with
    index := (u.index ||| BitVec.ofNat 16 (u.takeValue (min u.w.toNat 8))) + 1, count := 0,
    dstate := if 8 < u.l.toNat then .cntHi else .cntLo }) ∧
  (u.dstate = .cntHi → u.step = { u.taken (u.l.toNat - 8) with
    count := BitVec.ofNat 16 (u.takeValue (u.l.toNat - 8) * 256), dstate := .cntLo }) ∧
  (u.dstate = .cntLo → u.step = { u.taken (min u.l.toNat 8) with
    count := (u.count ||| BitVec.ofNat 16 (u.takeValue (min u.l.toNat 8))) + 1, dstate := .copy }) ∧
  u.copyByte = memRead u.dict (((u.head.toNat : Int) - u.index.toNat) % 2 ^ u.w.toNat).toNat ∧
  u.copyStep = { u.put u.copyByte with
    count := u.count - 1, dstate := if u.count - 1 = 0 then .tag else .copy }

/-- `put(c)` but for its emission (spec/42_heatshrink_decoder.md R175): the byte is stored at `HEAD mod 2^W`, every
other offset keeps its byte, and HEAD advances. -/
def PutRule (u : Hsd) (c : Byte) : Prop :=
  u.put c = { u with dict := (u.put c).dict, head := u.head + 1 } ∧
  ∀ a, a < 2 ^ u.w.toNat →
    memRead (u.put c).dict a = if a = u.head.toNat % 2 ^ u.w.toNat then c else memRead u.dict a

/-- The encoder's pending bits, the oldest first (spec/10_state.md R40). -/
def pendingOut (u : Hse) : List Bool := bitsOfNat u.nbits.toNat u.obits.toNat

/-- `HIST ++ Q` by position (spec/43_heatshrink_encoder.md R217). -/
def histThenQueue (u : Hse) (i : Nat) : Byte :=
  if i < 2 ^ u.w.toNat then memRead u.hist i else u.q.getD (i - 2 ^ u.w.toNat) 0

/-- The match `encode_token` finds (spec/43_heatshrink_encoder.md R217). -/
def tokenMatch (u : Hse) : Match :=
  findMatch u.w.toNat (histThenQueue u) (2 ^ u.w.toNat) (min (2 ^ u.l.toNat) u.q.length)

/-- A match is used only above the break-even threshold (spec/43_heatshrink_encoder.md R212). -/
abbrev UsesMatch (u : Hse) : Prop := (1 + u.w.toNat + u.l.toNat) / 8 < (tokenMatch u).len

/-- The bits of the token (spec/30_encoding.md R111, R112): tag 0, offset - 1 and length - 1, or tag 1 and the byte. -/
def tokenBits (u : Hse) : List Bool :=
  if UsesMatch u then
    [false] ++ bitsOfNat u.w.toNat ((tokenMatch u).off - 1) ++ bitsOfNat u.l.toNat ((tokenMatch u).len - 1)
  else [true] ++ bitsOfNat 8 (u.q.headD 0).toNat

/-- How many bytes the token stands for (spec/43_heatshrink_encoder.md R217). -/
def tokenBytes (u : Hse) : Nat := if UsesMatch u then (tokenMatch u).len else 1

/-- `encode_token()` (spec/43_heatshrink_encoder.md R217, spec/20_memory.md R72): the token's bits after the pending
ones, and its bytes moved from Q into HIST. -/
def TokenRule (u : Hse) : Prop :=
  pendingOut u.encodeToken = pendingOut u ++ tokenBits u ∧
  u.encodeToken.obits.toNat < 2 ^ u.encodeToken.nbits.toNat ∧
  u.encodeToken.q = u.q.drop (tokenBytes u) ∧
  (∀ a, a < 2 ^ u.w.toNat → memRead u.encodeToken.hist a = histThenQueue u (a + tokenBytes u)) ∧
  u.encodeToken = { u with
    nbits := u.encodeToken.nbits, obits := u.encodeToken.obits, q := u.encodeToken.q, hist := u.encodeToken.hist }

/-- The output bytes and the scan trigger (spec/43_heatshrink_encoder.md R218, R219). -/
def OutputRule (u : Hse) : Prop :=
  (u.canScan = true ↔
    1 ≤ u.q.length ∧ (u.finishing = true ∨ min (2 ^ u.l.toNat) u.inCap.toNat ≤ u.q.length)) ∧
  (8 ≤ u.nbits.toNat →
    u.outByte.toNat = u.obits.toNat / 2 ^ (u.nbits.toNat - 8) % 256 ∧
    u.afterByte = { u with
      nbits := u.nbits - 8, obits := BitVec.ofNat 37 (u.obits.toNat % 2 ^ (u.nbits.toNat - 8)) }) ∧
  (0 < u.nbits.toNat → u.nbits.toNat < 8 →
    u.lastByte.toNat = u.obits.toNat * 2 ^ (8 - u.nbits.toNat) % 256 ∧ u.afterLast = { u with nbits := 0, obits := 0 })

/-- HSD_POLL's loop (spec/42_heatshrink_decoder.md R180, R177), with room for so many bytes more: from a unit to a unit,
a status and the bytes output. -/
inductive HsdPollRun : Nat → Hsd → Hsd → Status → List Byte → Prop
  | copyFull {u : Hsd} : u.dstate = .copy → HsdPollRun 0 u u .more []
  | copyByte {room : Nat} {u v : Hsd} {st : Status} {d : List Byte} :
      u.dstate = .copy → HsdPollRun room u.copyStep v st d → HsdPollRun (room + 1) u v st (u.copyByte :: d)
  | starved {room : Nat} {u : Hsd} : u.dstate ≠ .copy → u.avail < u.need → HsdPollRun room u u .empty []
  | litFull {u : Hsd} : u.dstate = .lit → u.need ≤ u.avail → HsdPollRun 0 u u .more []
  | litByte {room : Nat} {u v : Hsd} {st : Status} {d : List Byte} :
      u.dstate = .lit → u.need ≤ u.avail → HsdPollRun room u.step v st d →
        HsdPollRun (room + 1) u v st (u.litByte :: d)
  | bits {room : Nat} {u v : Hsd} {st : Status} {d : List Byte} :
      u.dstate ≠ .copy → u.dstate ≠ .lit → u.need ≤ u.avail → HsdPollRun room u.step v st d →
        HsdPollRun room u v st d

/-- HSE_POLL's loop (spec/43_heatshrink_encoder.md R221), with room for so many bytes more. -/
inductive HsePollRun : Nat → Hse → Hse → Status → List Byte → Prop
  | byteFull {u : Hse} : 8 ≤ u.nbits.toNat → HsePollRun 0 u u .more []
  | byteOut {room : Nat} {u v : Hse} {st : Status} {d : List Byte} :
      8 ≤ u.nbits.toNat → HsePollRun room u.afterByte v st d → HsePollRun (room + 1) u v st (u.outByte :: d)
  | token {room : Nat} {u v : Hse} {st : Status} {d : List Byte} :
      u.nbits.toNat < 8 → u.canScan = true → HsePollRun room u.encodeToken v st d → HsePollRun room u v st d
  | lastFull {u : Hse} :
      u.nbits.toNat < 8 → u.canScan = false → u.finishing = true → u.q = [] → 0 < u.nbits.toNat →
        HsePollRun 0 u u .more []
  | lastOut {room : Nat} {u v : Hse} {st : Status} {d : List Byte} :
      u.nbits.toNat < 8 → u.canScan = false → u.finishing = true → u.q = [] → 0 < u.nbits.toNat →
        HsePollRun room u.afterLast v st d → HsePollRun (room + 1) u v st (u.lastByte :: d)
  | idle {room : Nat} {u : Hse} :
      u.nbits.toNat < 8 → u.canScan = false → ¬ (u.finishing = true ∧ u.q = [] ∧ 0 < u.nbits.toNat) →
        HsePollRun room u u .empty []

/-- What a run of commands leaves: the state, the bytes its SINKs accepted and the bytes its POLLs output, in order. -/
structure CodecTrace where
  final : State
  accepted : List Byte
  output : List Byte

/-- The last response given. -/
def lastResponse (t : State) : Response := t.host.responses.getLast?.getD ⟨.ok, 0, []⟩

/-- The bytes a SINK that led to `t` accepted: as many as its count says. -/
def acceptedBy (i : Instr) (t : State) : List Byte :=
  match i with
  | .hsdSink din => din.take (lastResponse t).count.toNat
  | .hseSink din => din.take (lastResponse t).count.toNat
  | _ => []

/-- The bytes a POLL that led to `t` output. -/
def outputBy (i : Instr) (t : State) : List Byte :=
  match i with
  | .hsdPoll => (lastResponse t).dout
  | .hsePoll => (lastResponse t).dout
  | _ => []

/-- Commands executed one after another. -/
def codecTrace : List Instr → State → CodecTrace
  | [], s => ⟨s, [], []⟩
  | i :: is, s =>
    match exec i s with
    | .next t =>
      ⟨(codecTrace is t).final, acceptedBy i t ++ (codecTrace is t).accepted, outputBy i t ++ (codecTrace is t).output⟩
    | _ => ⟨s, [], []⟩

/-- A host that only sinks, polls and finishes the decoder. -/
def HsdScript (is : List Instr) : Prop := ∀ i ∈ is, (∃ din, i = .hsdSink din) ∨ i = .hsdPoll ∨ i = .hsdFinish

/-- A host that only sinks, polls and finishes the encoder. -/
def HseScript (is : List Instr) : Prop := ∀ i ∈ is, (∃ din, i = .hseSink din) ∨ i = .hsePoll ∨ i = .hseFinish

/-- `m` bytes at offset `o` before `p` agree with those at `p` (spec/43_heatshrink_encoder.md R216). -/
def Agrees (S : Nat → Byte) (p o m : Nat) : Prop := ∀ j, j < m → S (p - o + j) = S (p + j)

/-! ## The dispatcher -/

/-- The fatal entry (spec/60_exceptions.md R356); the route of an empty FD.ROUTE is the model's choice (log entry 12). -/
def afterFatal (code : FatalCode) (f : Fd) : Fd :=
  { f with error := code, results := [], pay := [], dec := [], route := [], routeKind := .ini, phase := .error }

/-- A fatal error after `n` bytes consumed (spec/60_exceptions.md R356). -/
def fatal (code : FatalCode) (t : State) (f : Fd) (n : Nat) : Answer := answer { t with fd := afterFatal code f } .fatal n []

/-- The exact-N read (spec/45_framing_dispatcher.md R298): go on with the bytes and the unit past them, or fail, or wait. -/
def phaseRead (n : Nat) (code : FatalCode) (s : State) (next : List Byte → Fd → Answer) : Answer :=
  if n ≤ s.fd.src.length then
    next (s.fd.src.take n) { s.fd with src := s.fd.src.drop n, cursor := s.fd.cursor + BitVec.ofNat 64 n }
  else if s.fd.eof = true then fatal code s s.fd 0
  else answer s .wait 0 []

/-- A phase completed after `n` bytes: the unit becomes `f`. -/
def phaseOk (s : State) (f : Fd) (n : Nat) : Answer := answer { s with fd := f } .ok n []

/-- The record of a block (spec/30_encoding.md R116, spec/45_framing_dispatcher.md R311). -/
def recordOf (f : Fd) (route : Route) (dec routed : List Byte) (valid : Bool) (stored computed : BitVec 32) :
    BlockRecord :=
  { btype := f.btype, comp := f.comp, usize := f.busize, csize := f.bcsize, params := f.bparam, ckKind := f.ckKind,
    valid := valid, sizeMismatch := decide (dec.length ≠ f.busize.toNat), route := route, storedCrc := stored,
    computedCrc := computed, decLen := BitVec.ofNat 32 dec.length, routed := routed }

/-- A record appended and the block's bytes dropped (spec/45_framing_dispatcher.md R311). -/
def withRecord (f : Fd) (r : BlockRecord) : Fd :=
  { f with results := f.results ++ [r], pay := [], dec := [], route := [], routeKind := .ini, phase := .blkHdr }

/-- Compression dispatch (spec/45_framing_dispatcher.md R305): the block in `s` decodes to `d`, and `t` is the state
after any call of INFLATE. -/
def DecodesTo (s : State) (d : List Byte) (t : State) : Prop :=
  (s.fd.comp = 0#16 ∧ d = s.fd.pay ∧ t = s) ∨
  (s.fd.comp = 1#16 ∧ s.inflateAnswer s.fd.pay = some d ∧ t = s.inflateCalled s.fd.pay) ∨
  (s.fd.comp = 2#16 ∧ d = hsDecode 11 4 s.fd.pay ∧ t = s) ∨
  (s.fd.comp = 3#16 ∧ d = hsDecode 12 4 s.fd.pay ∧ t = s)

/-- A block whose decoded bytes, or whose unpacked text, are too long for the model (spec/45_framing_dispatcher.md R305,
R306; spec/92_eei_decisions.md D60). -/
def Oversized (s : State) : Prop :=
  s.fd.phase = .decode ∧ ∃ d t, DecodesTo s d t ∧
    (2 ^ 32 - 37 < d.length ∨
      (s.fd.btype = 1 ∧ (s.fd.bparam.extractLsb' 0 16 = 1 ∨ s.fd.bparam.extractLsb' 0 16 = 2) ∧
        2 ^ 32 - 37 < (mpDecode s.mpNlSkip d).length))

/-- The end of DECODE (spec/45_framing_dispatcher.md R306): `routed` goes by `route`, the state with its delivery is `t`. -/
def decoded (t : State) (route : Route) (d routed : List Byte) : Answer :=
  if t.fd.ckKind = 1#16 then
    phaseOk t { t.fd with dec := d, route := routed, routeKind := route, phase := .crc } 0
  else phaseOk t (withRecord t.fd (recordOf t.fd route d routed true 0 0)) 0

/-- A delivery made (spec/45_framing_dispatcher.md R310). -/
def delivered (t : State) (e : PortEvent) : State :=
  { t with host := { t.host with events := t.host.events ++ [e] } }

/-- FD_RUN: steps until one answers something other than OK (spec/45_framing_dispatcher.md R312). -/
inductive RunsTo : State → State → Status → Nat → Prop
  | stop {s t : State} {st : Status} {k : Nat} : fdStep s = .done ⟨t, st, k⟩ → st ≠ .ok → RunsTo s t st k
  | more {s t u : State} {st : Status} {k n : Nat} :
      fdStep s = .done ⟨t, .ok, k⟩ → RunsTo t u st n → RunsTo s u st (k + n)

/-- FD_STEPs that answer OK, from a state to a state. -/
inductive OkSteps : State → State → Prop
  | none {s : State} : OkSteps s s
  | more {s t u : State} {k : Nat} : fdStep s = .done ⟨t, .ok, k⟩ → OkSteps t u → OkSteps s u

/-- A property or plain Gcode block without compression, as a container holds it, and its stored CRC. -/
structure PlainBlock where
  btype : BitVec 16
  payload : List Byte
  stored : BitVec 32

/-- The bytes of a plain block that its CRC covers (spec/30_encoding.md R102, R105, R107, R108). -/
def PlainBlock.body (b : PlainBlock) : List Byte :=
  leBytes 2 b.btype.toNat ++ leBytes 2 0 ++ leBytes 4 b.payload.length ++ leBytes 2 0 ++ b.payload

/-- A plain block on the wire. -/
def PlainBlock.wire (b : PlainBlock) : List Byte := b.body ++ leBytes 4 b.stored.toNat

/-- A container with magic "GCDE", version 1 and checksum kind 1 (spec/30_encoding.md R101). -/
def container (bs : List PlainBlock) : List Byte :=
  [0x47, 0x43, 0x44, 0x45] ++ leBytes 4 1 ++ leBytes 2 1 ++ bs.flatMap PlainBlock.wire

/-- The delivery of a plain block (spec/45_framing_dispatcher.md R291, R310). -/
def PlainBlock.event (b : PlainBlock) : PortEvent := if b.btype = 1#16 then .text b.payload else .ini b.payload

/-- The record of a plain block: VALID says whether its stored CRC is the computed one. -/
def PlainBlock.record (b : PlainBlock) : BlockRecord :=
  { btype := b.btype, comp := 0, usize := BitVec.ofNat 32 b.payload.length, csize := 0, params := 0, ckKind := 1,
    valid := b.stored == crcUpdate 0 b.body, sizeMismatch := false, route := if b.btype = 1#16 then .text else .ini,
    storedCrc := b.stored, computedCrc := crcUpdate 0 b.body, decLen := BitVec.ofNat 32 b.payload.length,
    routed := b.payload }

end Sys2Proof.Claims

open Sys2Proof Sys2Proof.Machine Sys2Proof.Claims

/-! ## Encoding and the command cycle -/

/-- Decoding an encoded instruction gives it back (spec/30_encoding.md R92 to R94, R99). -/
def Obligations.DecodeInvertsEncode : Prop :=
  ∀ i : Instr, i.wellFormed = true → decode (encode i) = .ok i

/-- What decodes is the encoding of a well-formed instruction, and of that one only: no bit of a command is dropped. That a
din of 2^32 bytes or more does not decode is the model's reading (log entry 6). -/
def Obligations.EncodeInvertsDecode : Prop :=
  ∀ (c : Command) (i : Instr), decode c = .ok i → encode i = c ∧ i.wellFormed = true

/-- spec/30_encoding.md R97, spec/60_exceptions.md R352: exactly the malformed commands are ILLEGAL, before anything
else, with no state change. -/
def Obligations.MalformedCommandsAnswerIllegal : Prop :=
  Status.illegal.code = 10#4 ∧
  ∀ (o : BitVec 8) (imm : BitVec 24) (din : List Byte), din.length < 2 ^ 32 →
    (Malformed o.toNat imm.toNat din → ∀ s, execute (cmd o imm din) s = illegal s) ∧
    (¬ Malformed o.toNat imm.toNat din →
      ∃ i, decode (cmd o imm din) = .ok i ∧ ∀ s, execute (cmd o imm din) s = exec i s)

/-- spec/40_sys.md R130, R131: a step takes the next command the host issues, decodes it and executes it; nothing else
of the state changes on the way. With no command to issue a step changes nothing: the model's choice, log entry 1. -/
def Obligations.StepExecutesTheNextCommand : Prop :=
  ∀ (s : State),
    (∀ c rest i, s.host.pending = c :: rest → decode c = .ok i →
      step s = exec i { s with host := { s.host with pending := rest } }) ∧
    (∀ c rest e, s.host.pending = c :: rest → decode c = .error e →
      step s = illegal { s with host := { s.host with pending := rest } }) ∧
    (s.host.pending = [] → step s = .next s)

/-- Command words written out from spec/30_encoding.md R92 to R94 decode to the instructions they stand for. -/
def Obligations.WrittenWordsDecode : Prop :=
  decode ⟨0x00000000#32, []⟩ = .ok .nop ∧
  decode ⟨0x02000203#32, []⟩ = .ok (.rdreg .hsdStat) ∧
  decode ⟨0x11000000#32, [0x26, 0x39, 0xF4, 0xCB]⟩ = .ok (.crcLoad 0xCBF43926#32) ∧
  decode ⟨0x20000078#32, [0x10, 0, 0, 0, 0x02, 0, 0, 0]⟩ = .ok (.hsdCfg 8#4 7#4 16#32 2#32) ∧
  decode ⟨0x31000000#32, [0x61, 0x62]⟩ = .ok (.hseSink [0x61, 0x62]) ∧
  decode ⟨0x41000000#32, [0xFF]⟩ = .ok (.mpFeed [0xFF]) ∧
  decode ⟨0x55000001#32, []⟩ = .ok (.fdResult 1#24) ∧
  decode ⟨0x60000000#32, []⟩ = .error .reservedUnit

/-! ## SYS -/

/-- spec/40_sys.md R132: NOP does nothing. -/
def Obligations.NopRule : Prop :=
  (∀ s, exec .nop s = answer s .ok 0 []) ∧ EncodedBare 0x00#8 .nop

/-- spec/40_sys.md R134: RESET_ALL sets every register to its reset value, empties every queue and sequence and
unconfigures both codecs. -/
def Obligations.ResetAllRule : Prop :=
  EncodedBare 0x01#8 .resetAll ∧
  ∀ s, ∃ t, exec .resetAll s = answer t .ok 0 [] ∧
    (∀ r, regValue r t = if r = .sysId then 0x31434453#64 else 0#64) ∧
    (t.hsd.inq = [] ∧ t.hse.q = [] ∧ t.fd.src = [] ∧ t.fd.pay = [] ∧ t.fd.dec = [] ∧ t.fd.route = [] ∧
      t.fd.results = []) ∧
    (t.hsd.cfgd = false ∧ t.hse.cfgd = false ∧ t.hsd.dict = [] ∧ t.hse.hist = [])

/-- spec/40_sys.md R133, spec/30_encoding.md R98: RDREG answers the register's value as 8 bytes, bits 7:0 first, and
changes no state; an unassigned number, a set bit of IMM[23:12] or an operand is ILLEGAL. -/
def Obligations.RdregRule : Prop :=
  (∀ r s, exec (.rdreg r) s =
    answer s .ok 8 ((List.range 8).map fun k => (regValue r s).extractLsb' (8 * k) 8)) ∧
  ∀ imm din s, execute (cmd 0x02#8 imm din) s =
    match Reg.all.find? (fun r => r.number.toNat == imm.toNat) with
    | some r => if din = [] then exec (.rdreg r) s else illegal s
    | none => illegal s

/-- The register numbers of spec/10_state.md R20, each register once; the value of every register, field by field,
reserved bits 0 (R21 to R59); the codes of DSTATE (R27), FD_PHASE (R46), FD_ERROR (spec/45_framing_dispatcher.md R292) and
of the statuses (spec/30_encoding.md R96), each table in its order from 0. -/
def Obligations.RegisterNumbersAndFields : Prop :=
  (Reg.all.map fun r => r.number.toNat) = registerNumbers ∧
  (∀ r : Reg, r ∈ Reg.all) ∧
  ([DState.tag, .lit, .idxHi, .idxLo, .cntHi, .cntLo, .copy].map fun d => d.code.toNat) = List.range 7 ∧
  ([Phase.idle, .fileHdr, .blkHdr, .blkCSize, .params, .payload, .decode, .crc, .done, .error, .cancelled].map
    fun p => p.code.toNat) = List.range 11 ∧
  ([FatalCode.none, .truncFileHdr, .badCkKind, .truncBlockHdr, .badType, .badCompression, .truncParams, .truncPayload,
    .badEncoding, .badFormat, .unsupportedFormat, .ext, .truncCrc].map fun e => e.code.toNat) = List.range 13 ∧
  ([Status.ok, .full, .empty, .more, .done, .range, .misuse, .wait, .fatal, .cancelled, .illegal].map
    fun c => c.code.toNat) = List.range 11 ∧
  ∀ s : State,
    ((regValue .sysId s).toNat = 0x31434453 ∧ (regValue .crcAcc s).toNat = s.crcAcc.toNat) ∧
    ((regValue .hsdCfg s).toNat = s.hsd.w.toNat + 16 * s.hsd.l.toNat + 256 * bit s.hsd.cfgd ∧
      (regValue .hsdInCap s).toNat = s.hsd.inCap.toNat ∧ (regValue .hsdOutCap s).toNat = s.hsd.outCap.toNat ∧
      (regValue .hsdStat s).toNat = s.hsd.dstate.code.toNat + 8 * bit s.hsd.finishing + 16 * bit s.hsd.misuse +
        32 * bit (decide (s.hsd.cfgd = true ∧ s.hsd.finishing = true ∧ s.hsd.inq = [] ∧ s.hsd.dstate ≠ .copy ∧
          s.hsd.avail < s.hsd.need)) ∧
      (s.hsd.inq.length ≤ s.hsd.inCap.toNat → (regValue .hsdInLvl s).toNat = s.hsd.inq.length) ∧
      (regValue .hsdBitReg s).toNat = s.hsd.cur.toNat + 256 * s.hsd.left.toNat ∧
      (regValue .hsdHead s).toNat = s.hsd.head.toNat ∧ (regValue .hsdIndex s).toNat = s.hsd.index.toNat ∧
      (regValue .hsdCount s).toNat = s.hsd.count.toNat) ∧
    ((regValue .hseCfg s).toNat = s.hse.w.toNat + 16 * s.hse.l.toNat + 256 * bit s.hse.cfgd ∧
      (regValue .hseInCap s).toNat = s.hse.inCap.toNat ∧ (regValue .hseOutCap s).toNat = s.hse.outCap.toNat ∧
      (regValue .hseStat s).toNat = bit s.hse.finishing + 2 * bit s.hse.misuse +
        4 * bit (decide (s.hse.cfgd = true ∧ s.hse.finishing = true ∧ s.hse.q = [] ∧ s.hse.nbits = 0#6)) ∧
      (s.hse.q.length ≤ s.hse.inCap.toNat → (regValue .hseQLvl s).toNat = s.hse.q.length) ∧
      (regValue .hseNBits s).toNat = s.hse.nbits.toNat ∧ (regValue .hseOBits s).toNat = s.hse.obits.toNat) ∧
    ((regValue .mpStat s).toNat = bit s.mpu.packing + 2 * bit s.mpu.nospace + 4 * bit s.mpu.cmdCount +
        8 * bit s.mpu.cmdActive + 16 * s.mpu.fcq.toNat + 64 * bit s.mpu.addSpace + 128 * bit s.mpu.nonempty ∧
      (regValue .mpCharBuf s).toNat = s.mpu.charBuf.toNat ∧ (regValue .mpLast s).toNat = s.mpu.last.toNat ∧
      (regValue .mpOutLen s).toNat = s.mpu.outLen.toNat) ∧
    ((regValue .fdPhase s).toNat = s.fd.phase.code.toNat ∧ (regValue .fdCursor s).toNat = s.fd.cursor.toNat ∧
      (regValue .fdMagic s).toNat = s.fd.magic.toNat ∧ (regValue .fdVersion s).toNat = s.fd.version.toNat ∧
      (regValue .fdCkKind s).toNat = s.fd.ckKind.toNat ∧
      (s.fd.results.length < 2 ^ 32 → (regValue .fdNBlocks s).toNat = s.fd.results.length) ∧
      (regValue .fdError s).toNat = s.fd.error.code.toNat ∧
      (regValue .fdFlags s).toNat = bit s.fd.eof + 2 * bit s.fd.abortReq + 4 * bit s.fd.magicOk +
        8 * bit s.fd.misuse + 16 * bit s.fd.hdrDone ∧
      (s.fd.src.length < 2 ^ 64 → (regValue .fdSrcLvl s).toNat = s.fd.src.length) ∧
      (regValue .fdBTypeComp s).toNat = s.fd.btype.toNat + 65536 * s.fd.comp.toNat ∧
      (regValue .fdBUSize s).toNat = s.fd.busize.toNat ∧ (regValue .fdBCSize s).toNat = s.fd.bcsize.toNat ∧
      (regValue .fdBParam s).toNat = s.fd.bparam.toNat ∧ (regValue .fdBCrc s).toNat = s.fd.bcrc.toNat)

/-- spec/70_reset_and_hazards.md R380, R381: the reset state. -/
def Obligations.ResetStateHoldsResetValues : Prop :=
  (∀ r, regValue r State.reset = if r = .sysId then 0x31434453#64 else 0#64) ∧
  (State.reset.hsd.inq = [] ∧ State.reset.hse.q = [] ∧ State.reset.fd.src = [] ∧ State.reset.fd.pay = [] ∧
    State.reset.fd.dec = [] ∧ State.reset.fd.route = [] ∧ State.reset.fd.results = []) ∧
  (State.reset.hsd.cfgd = false ∧ State.reset.hse.cfgd = false ∧ State.reset.hsd.dict = [] ∧
    State.reset.hse.hist = []) ∧
  State.reset.hsd.dstate = .tag ∧ State.reset.fd.phase = .idle ∧ State.reset.fd.error = .none ∧
  State.reset.mpu.packing = false ∧ State.reset.mpu.nospace = false ∧
  ∀ s t, exec .resetAll s = .next t →
    t.crcAcc = State.reset.crcAcc ∧ t.hsd = State.reset.hsd ∧ t.hse = State.reset.hse ∧ t.mpu = State.reset.mpu ∧
      t.fd = State.reset.fd

/-- The reset state is clean, records no fault (spec/70_reset_and_hazards.md R392) and meets every unit's invariant. The
form of the memories and the route of an empty FD.ROUTE in them are the model's (log entries 10 and 12). -/
def Obligations.ResetIsCleanAndInvariant : Prop :=
  State.reset.Clean ∧ State.reset.NoFaultRecorded ∧ State.reset.Inv

/-! ## Every command -/

/-- spec/20_memory.md R82: a command writes only the state of the unit it names (RESET_ALL: every unit). That no command,
RESET_ALL included, changes the parameter MP_NL_SKIP or the host's side but as said here is the model's choice (log
entries 1 to 4). -/
def Obligations.CommandsTouchOnlyTheirUnit : Prop :=
  ∀ (i : Instr) (s t : State), exec i s = .next t →
    (unitOf i ≠ .crc → i ≠ .resetAll → t.crcAcc = s.crcAcc) ∧
    (unitOf i ≠ .hsd → i ≠ .resetAll → t.hsd = s.hsd) ∧
    (unitOf i ≠ .hse → i ≠ .resetAll → t.hse = s.hse) ∧
    (unitOf i ≠ .mpu → i ≠ .resetAll → t.mpu = s.mpu) ∧
    (unitOf i ≠ .fd → i ≠ .resetAll → t.fd = s.fd) ∧
    (t.mpNlSkip = s.mpNlSkip ∧ t.host.pending = s.host.pending) ∧
    (unitOf i ≠ .fd → t.host.events = s.host.events ∧ t.host.inflateCalls = s.host.inflateCalls ∧
      t.host.inflateAnswers = s.host.inflateAnswers ∧ t.host.imageAnswers = s.host.imageAnswers) ∧
    (unitOf i ≠ .fd → unitOf i ≠ .mpu → t.host.draws = s.host.draws)

/-- spec/20_memory.md R82, spec/45_framing_dispatcher.md R297: what a command does depends on its own unit, the host's
side and the parameter alone; in particular a parse does not see HSD or MPU. -/
def Obligations.CommandsReadOnlyTheirUnit : Prop :=
  ∀ (i : Instr) (s s' t : State), s.host = s'.host → s.mpNlSkip = s'.mpNlSkip → exec i s = .next t →
    (unitOf i = .crc → s.crcAcc = s'.crcAcc →
      ∃ t', exec i s' = .next t' ∧ t'.crcAcc = t.crcAcc ∧ t'.host = t.host) ∧
    (unitOf i = .hsd → s.hsd = s'.hsd → ∃ t', exec i s' = .next t' ∧ t'.hsd = t.hsd ∧ t'.host = t.host) ∧
    (unitOf i = .hse → s.hse = s'.hse → ∃ t', exec i s' = .next t' ∧ t'.hse = t.hse ∧ t'.host = t.host) ∧
    (unitOf i = .mpu → s.mpu = s'.mpu → ∃ t', exec i s' = .next t' ∧ t'.mpu = t.mpu ∧ t'.host = t.host) ∧
    (unitOf i = .fd → s.fd = s'.fd → ∃ t', exec i s' = .next t' ∧ t'.fd = t.fd ∧ t'.host = t.host)

/-- spec/40_sys.md R130, spec/30_encoding.md R95, spec/45_framing_dispatcher.md R310: a command gives exactly one
response; a MISUSE has count 0 and empty dout; a well-formed command is never ILLEGAL; no delivery is undone. -/
def Obligations.EveryCommandAnswersOnce : Prop :=
  ∀ (i : Instr) (s t : State), exec i s = .next t →
    s.host.events <+: t.host.events ∧
    ∃ r : Response, t.host.responses = s.host.responses ++ [r] ∧ r.status ≠ .illegal ∧
      (r.status = .misuse → r.count = 0#32 ∧ r.dout = [])

/-- spec/92_eei_decisions.md D51 and D60: the only refusals are a source of 2^64 bytes or more and an oversized block, of
the step itself or of one that FD_RUN meets after steps that answer OK. Counting the source from FD_START and refusing such
an FD_RUN whole are the model's reading (log entry 11). -/
def Obligations.OnlyOversizeRefuses : Prop :=
  ∀ (i : Instr) (s : State) (r : Refusal), exec i s = .refused r →
    (r = .sourceTooLong ∧ ∃ din, i = .fdPush din ∧ 2 ^ 64 ≤ s.fd.cursor.toNat + s.fd.src.length + din.length) ∨
    (r = .blockTooLong ∧ ((i = .fdStep ∧ Oversized s) ∨ (i = .fdRun ∧ ∃ u, OkSteps s u ∧ Oversized u)))

/-! ## CRC -/

/-- spec/41_crc.md R152. -/
def Obligations.CrcClearRule : Prop :=
  (∀ s, exec .crcClear s = answer { s with crcAcc := 0#32 } .ok 0 []) ∧ EncodedBare 0x10#8 .crcClear

/-- spec/41_crc.md R154, with `le32` as spec/00_scope.md R9 gives it. -/
def Obligations.CrcLoadRule : Prop :=
  (∀ (d : List Byte) (i : Nat), le32 d i = d.getD (i + 3) 0 ++ d.getD (i + 2) 0 ++ d.getD (i + 1) 0 ++ d.getD i 0) ∧
  (∀ v s, exec (.crcLoad v) s = answer { s with crcAcc := v } .ok 0 []) ∧
  ∀ imm din s, execute (cmd 0x11#8 imm din) s =
    if imm = 0#24 ∧ din.length = 4 then exec (.crcLoad (le32 din 0)) s else illegal s

/-- spec/41_crc.md R155: one byte, the same as a span of that byte but for nothing. -/
def Obligations.CrcByteRule : Prop :=
  (∀ b s, exec (.crcByte b) s = answer { s with crcAcc := crcUpdate s.crcAcc [b] } .ok 1 []) ∧
  (∀ b s, exec (.crcByte b) s = exec (.crcSpan [b]) s) ∧
  ∀ imm din s, execute (cmd 0x12#8 imm din) s =
    if imm.toNat < 256 ∧ din = [] then exec (.crcByte (BitVec.ofNat 8 imm.toNat)) s else illegal s

/-- spec/41_crc.md R156. -/
def Obligations.CrcSpanRule : Prop :=
  (∀ din s, exec (.crcSpan din) s = answer { s with crcAcc := crcUpdate s.crcAcc din } .ok din.length []) ∧
  EncodedAny 0x13#8 .crcSpan ∧
  (∀ acc, crcUpdate acc [] = acc) ∧
  ∀ acc a b, crcUpdate (crcUpdate acc a) b = crcUpdate acc (a ++ b)

/-- spec/41_crc.md R157. -/
def Obligations.CrcReadRule : Prop :=
  (∀ s, exec .crcRead s = answer s .ok 4 ((List.range 4).map fun k => s.crcAcc.extractLsb' (8 * k) 8)) ∧
  EncodedBare 0x14#8 .crcRead

/-- spec/41_crc.md R151, R153: the update bit by bit, chaining, and the check value. -/
def Obligations.CrcChains : Prop :=
  (∀ acc s, crcUpdate acc s = s.foldl crcEat (acc ^^^ 0xFFFFFFFF#32) ^^^ 0xFFFFFFFF#32) ∧
  (∀ a b, crcUpdate (crcUpdate 0#32 a) b = crcUpdate 0#32 (a ++ b)) ∧ crcUpdate 0#32 [] = 0#32 ∧
  crcUpdate 0#32 [0x31, 0x32, 0x33, 0x34, 0x35, 0x36, 0x37, 0x38, 0x39] = 0xCBF43926#32

/-- spec/45_framing_dispatcher.md R316: a change of one covered byte changes the CRC. -/
def Obligations.CrcDetectsOneByte : Prop :=
  ∀ (acc : BitVec 32) (a b : List Byte) (x y : Byte), x ≠ y →
    crcUpdate acc (a ++ x :: b) ≠ crcUpdate acc (a ++ y :: b)

/-! ## HSD -/

/-- spec/42_heatshrink_decoder.md R173: a legal configuration starts a new stream; an illegal one is RANGE and leaves
the unit unconfigured with every register 0. -/
def Obligations.HsdCfgRule : Prop :=
  EncodedCfg 0x20#8 .hsdCfg ∧
  ∀ (w l : BitVec 4) (i o : BitVec 32) (s : State),
    exec (.hsdCfg w l i o) s =
      if 4 ≤ w.toNat ∧ w.toNat ≤ 15 ∧ 3 ≤ l.toNat ∧ l.toNat ≤ w.toNat - 1 ∧ 1 ≤ i.toNat ∧ 1 ≤ o.toNat then
        answer { s with hsd :=
          { cfgd := true, w := w, l := l, inCap := i, outCap := o, dstate := .tag, finishing := false, misuse := false,
            inq := [], cur := 0, left := 0, head := 0, index := 0, count := 0, dict := [] } } .ok 0 []
      else
        answer { s with hsd :=
          { cfgd := false, w := 0, l := 0, inCap := 0, outCap := 0, dstate := .tag, finishing := false,
            misuse := false, inq := [], cur := 0, left := 0, head := 0, index := 0, count := 0, dict := [] } }
          .range 0 []

/-- spec/42_heatshrink_decoder.md R174. -/
def Obligations.HsdSinkRule : Prop :=
  EncodedAny 0x21#8 .hsdSink ∧
  ∀ (din : List Byte) (s : State),
    exec (.hsdSink din) s =
      if s.hsd.cfgd = false ∨ s.hsd.finishing = true then
        answer { s with hsd := { s.hsd with misuse := true } } .misuse 0 []
      else if s.hsd.inCap.toNat - s.hsd.inq.length = 0 then answer s .full 0 []
      else
        answer { s with hsd := { s.hsd with
            inq := s.hsd.inq ++ din.take (min (s.hsd.inCap.toNat - s.hsd.inq.length) din.length) } }
          .ok (min (s.hsd.inCap.toNat - s.hsd.inq.length) din.length) []

/-- spec/42_heatshrink_decoder.md R175: `take(k)` reads the next k bits of the stream as a number and leaves the rest;
it takes them bit by bit, a byte leaving INQ only when its first bit is needed, and changes nothing else. -/
def Obligations.TakeReadsTheNextBits : Prop :=
  (∀ (k : Nat) (u : Hsd), k ≤ u.avail → u.left.toNat ≤ 8 →
    u.takeValue k = bitsValue ((pendingBits u).take k) ∧ pendingBits (u.taken k) = (pendingBits u).drop k) ∧
  (∀ u : Hsd, u.taken 0 = u) ∧
  (∀ (k : Nat) (u : Hsd), u.left ≠ 0 → u.taken (k + 1) = Hsd.taken k { u with left := u.left - 1 }) ∧
  ∀ (k : Nat) (u : Hsd) (b : Byte) (rest : List Byte), u.left = 0 → u.inq = b :: rest →
    u.taken (k + 1) = Hsd.taken k { u with cur := b, left := 7, inq := rest }

/-- spec/42_heatshrink_decoder.md R180, R177, R387: HSD_POLL of a configured unit runs its loop to one of its own
ends, in every state, and answers what the loop output; of an unconfigured unit it is MISUSE. The bits available and
needed (R172) and the step in each state (R176) are the rules' own. -/
def Obligations.HsdPollRule : Prop :=
  EncodedBare 0x22#8 .hsdPoll ∧
  (∀ u : Hsd, u.avail = u.left.toNat + 8 * u.inq.length ∧ u.need = needed u.dstate u.w.toNat u.l.toNat ∧ StepRule u) ∧
  (∀ s : State, s.hsd.cfgd = false →
    exec .hsdPoll s = answer { s with hsd := { s.hsd with misuse := true } } .misuse 0 []) ∧
  ∀ s : State, s.hsd.cfgd = true →
    ∃ v st d, HsdPollRun s.hsd.outCap.toNat s.hsd v st d ∧
      exec .hsdPoll s = answer { s with hsd := v } st d.length d

/-- spec/42_heatshrink_decoder.md R180: at most OUT_CAP bytes; MORE means exactly OUT_CAP bytes and output still pending;
EMPTY means that the bits the state needs are not there. The configuration and the MISUSE bit stay. -/
def Obligations.HsdPollResponse : Prop :=
  ∀ s : State, s.hsd.cfgd = true →
    ∃ v st d, exec .hsdPoll s = answer { s with hsd := v } st d.length d ∧
      d.length ≤ s.hsd.outCap.toNat ∧
      ((st = .more ∧ d.length = s.hsd.outCap.toNat ∧ (v.dstate = .copy ∨ (v.dstate = .lit ∧ 8 ≤ v.avail))) ∨
        (st = .empty ∧ v.dstate ≠ .copy ∧ v.avail < v.need)) ∧
      v.cfgd = true ∧ v.w = s.hsd.w ∧ v.l = s.hsd.l ∧ v.inCap = s.hsd.inCap ∧ v.outCap = s.hsd.outCap ∧
      v.finishing = s.hsd.finishing ∧ v.misuse = s.hsd.misuse ∧ v.inq <:+ s.hsd.inq

/-- spec/42_heatshrink_decoder.md R178, R181. -/
def Obligations.HsdFinishRule : Prop :=
  EncodedBare 0x23#8 .hsdFinish ∧
  ∀ s : State,
    exec .hsdFinish s =
      if s.hsd.cfgd = false then answer { s with hsd := { s.hsd with misuse := true } } .misuse 0 []
      else
        answer { s with hsd := { s.hsd with finishing := true } }
          (if s.hsd.inq = [] ∧ s.hsd.dstate ≠ .copy ∧ s.hsd.avail < s.hsd.need then .done else .more) 0 []

/-- spec/42_heatshrink_decoder.md R179. -/
def Obligations.HsdResetRule : Prop :=
  EncodedBare 0x24#8 .hsdReset ∧
  ∀ s : State,
    exec .hsdReset s =
      if s.hsd.cfgd = false then answer { s with hsd := { s.hsd with misuse := true } } .misuse 0 []
      else
        answer { s with hsd := { s.hsd with
          dict := [], inq := [], cur := 0, left := 0, head := 0, index := 0, count := 0, dstate := .tag,
          finishing := false, misuse := false } } .ok 0 []

/-- spec/42_heatshrink_decoder.md R184: however the input is split into SINKs and whenever the host POLLs, once the unit
is done the outputs together are `hs_decode` of the bytes accepted, for every configuration and capacity. -/
def Obligations.HsdStreamIsPureDecode : Prop :=
  ∀ (w l : BitVec 4) (i o : BitVec 32) (s s' : State) (script : List Instr),
    ConfigLegal w l i o → exec (.hsdCfg w l i o) s = .next s' → HsdScript script →
      (codecTrace script s').final.hsd.done = true →
        (codecTrace script s').output = hsDecode w.toNat l.toNat (codecTrace script s').accepted

/-- spec/20_memory.md R71, spec/42_heatshrink_decoder.md R175, R182: a byte put into `HSD.DICT` stands at `HEAD mod 2^W`;
after the bytes `out` have been put into a fresh unit, offset INDEX reads the byte output INDEX positions earlier, or 0x00
if there is none. The same of the dictionary of `hs_decode` (R183). -/
def Obligations.WindowReadsBackOutput : Prop :=
  (∀ (u : Hsd) (c : Byte), Memory.wf (2 ^ u.w.toNat) u.dict → PutRule u c) ∧
  (∀ (u : Hsd) (out : List Byte), u.dict = [] → u.head = 0 → 1 ≤ u.index.toNat → u.index.toNat ≤ 2 ^ u.w.toNat →
    (out.foldl Hsd.put u).copyByte =
      if u.index.toNat ≤ out.length then out.getD (out.length - u.index.toNat) 0 else 0#8) ∧
  ∀ (w o : Nat) (out : List Byte), 1 ≤ o → o ≤ 2 ^ w →
    (out.foldl (HsWindow.push w) ⟨[], 0⟩).back w o = if o ≤ out.length then out.getD (out.length - o) 0 else 0#8

/-! ## HSE -/

/-- spec/43_heatshrink_encoder.md R213. -/
def Obligations.HseCfgRule : Prop :=
  EncodedCfg 0x30#8 .hseCfg ∧
  ∀ (w l : BitVec 4) (i o : BitVec 32) (s : State),
    exec (.hseCfg w l i o) s =
      if 4 ≤ w.toNat ∧ w.toNat ≤ 15 ∧ 3 ≤ l.toNat ∧ l.toNat ≤ w.toNat - 1 ∧ 1 ≤ i.toNat ∧ 1 ≤ o.toNat then
        answer { s with hse :=
          { cfgd := true, w := w, l := l, inCap := i, outCap := o, finishing := false, misuse := false,
            q := [], nbits := 0, obits := 0, hist := [] } } .ok 0 []
      else
        answer { s with hse :=
          { cfgd := false, w := 0, l := 0, inCap := 0, outCap := 0, finishing := false, misuse := false,
            q := [], nbits := 0, obits := 0, hist := [] } } .range 0 []

/-- spec/43_heatshrink_encoder.md R215. -/
def Obligations.HseSinkRule : Prop :=
  EncodedAny 0x31#8 .hseSink ∧
  ∀ (din : List Byte) (s : State),
    exec (.hseSink din) s =
      if s.hse.cfgd = false ∨ s.hse.finishing = true then
        answer { s with hse := { s.hse with misuse := true } } .misuse 0 []
      else if s.hse.inCap.toNat - s.hse.q.length = 0 then answer s .full 0 []
      else
        answer { s with hse := { s.hse with
            q := s.hse.q ++ din.take (min (s.hse.inCap.toNat - s.hse.q.length) din.length) } }
          .ok (min (s.hse.inCap.toNat - s.hse.q.length) din.length) []

/-- spec/43_heatshrink_encoder.md R221, R387: HSE_POLL of a configured unit runs its loop to one of its own ends, in
every state, and answers what the loop output; of an unconfigured unit it is MISUSE. The scan trigger and the output bytes
(R218, R219) and, in every state of the unit's invariant, the token it encodes (R212, R217, spec/30_encoding.md R111, R112)
are the rules' own. -/
def Obligations.HsePollRule : Prop :=
  EncodedBare 0x32#8 .hsePoll ∧
  (∀ u : Hse, OutputRule u) ∧
  (∀ u : Hse, u.Inv → u.cfgd = true → u.nbits.toNat < 8 → u.q ≠ [] → TokenRule u) ∧
  (∀ s : State, s.hse.cfgd = false →
    exec .hsePoll s = answer { s with hse := { s.hse with misuse := true } } .misuse 0 []) ∧
  ∀ s : State, s.hse.cfgd = true →
    ∃ v st d, HsePollRun s.hse.outCap.toNat s.hse v st d ∧
      exec .hsePoll s = answer { s with hse := v } st d.length d

/-- spec/43_heatshrink_encoder.md R222. -/
def Obligations.HseFinishRule : Prop :=
  EncodedBare 0x33#8 .hseFinish ∧
  ∀ s : State,
    exec .hseFinish s =
      if s.hse.cfgd = false then answer { s with hse := { s.hse with misuse := true } } .misuse 0 []
      else
        answer { s with hse := { s.hse with finishing := true } }
          (if s.hse.q = [] ∧ s.hse.nbits = 0#6 then .done else .more) 0 []

/-- spec/43_heatshrink_encoder.md R220. -/
def Obligations.HseResetRule : Prop :=
  EncodedBare 0x34#8 .hseReset ∧
  ∀ s : State,
    exec .hseReset s =
      if s.hse.cfgd = false then answer { s with hse := { s.hse with misuse := true } } .misuse 0 []
      else
        answer { s with hse := { s.hse with
          hist := [], q := [], nbits := 0, obits := 0, finishing := false, misuse := false } } .ok 0 []

/-- spec/43_heatshrink_encoder.md R216: the longest match within the limit, at the smallest offset that has it. -/
def Obligations.MatchSearchIsGreedy : Prop :=
  ∀ (w p maxlen : Nat) (S : Nat → Byte), 2 ^ w ≤ p →
    (findMatch w S p maxlen).len ≤ maxlen ∧
    (0 < (findMatch w S p maxlen).len →
      1 ≤ (findMatch w S p maxlen).off ∧ (findMatch w S p maxlen).off ≤ 2 ^ w ∧
      Agrees S p (findMatch w S p maxlen).off (findMatch w S p maxlen).len) ∧
    (∀ o m, 1 ≤ o → o ≤ 2 ^ w → m ≤ maxlen → Agrees S p o m → m ≤ (findMatch w S p maxlen).len) ∧
    ∀ o, 1 ≤ o → o < (findMatch w S p maxlen).off → ¬ Agrees S p o (findMatch w S p maxlen).len

/-- spec/43_heatshrink_encoder.md R223: however the input is split and whenever the host POLLs, once the unit is done
the outputs together are `hs_encode` of the bytes accepted. -/
def Obligations.HseStreamIsPureEncode : Prop :=
  ∀ (w l : BitVec 4) (i o : BitVec 32) (s s' : State) (script : List Instr),
    ConfigLegal w l i o → exec (.hseCfg w l i o) s = .next s' → HseScript script →
      (codecTrace script s').final.hse.done = true →
        (codecTrace script s').output = hsEncode w.toNat l.toNat i.toNat (codecTrace script s').accepted

/-- spec/43_heatshrink_encoder.md R225: decoding what was encoded gives the input back. -/
def Obligations.EncodeDecodeRoundTrip : Prop :=
  ∀ (w l c : Nat) (x : List Byte), 4 ≤ w → w ≤ 15 → 3 ≤ l → l ≤ w - 1 → 1 ≤ c →
    hsDecode w l (hsEncode w l c x) = x

/-- spec/42_heatshrink_decoder.md R171, spec/43_heatshrink_encoder.md R211: a codec command but CFG on an unconfigured
unit is MISUSE and sets the sticky bit alone; CFG is never MISUSE. -/
def Obligations.UnconfiguredCodecIsMisuse : Prop :=
  (∀ s : State, s.hsd.cfgd = false → ∀ i : Instr,
    ((∃ din, i = .hsdSink din) ∨ i = .hsdPoll ∨ i = .hsdFinish ∨ i = .hsdReset) →
      exec i s = answer { s with hsd := { s.hsd with misuse := true } } .misuse 0 []) ∧
  (∀ s : State, s.hse.cfgd = false → ∀ i : Instr,
    ((∃ din, i = .hseSink din) ∨ i = .hsePoll ∨ i = .hseFinish ∨ i = .hseReset) →
      exec i s = answer { s with hse := { s.hse with misuse := true } } .misuse 0 []) ∧
  ∀ (w l : BitVec 4) (i o : BitVec 32) (s : State),
    (∃ t st, exec (.hsdCfg w l i o) s = answer t st 0 [] ∧ (st = .ok ∨ st = .range)) ∧
    (∃ t st, exec (.hseCfg w l i o) s = answer t st 0 [] ∧ (st = .ok ∨ st = .range))

/-! ## MPU -/

/-- spec/44_meatpack.md R253. -/
def Obligations.MpResetRule : Prop :=
  (∀ s, exec .mpReset s = answer { s with mpu :=
    { packing := false, nospace := false, cmdCount := false, cmdActive := false, fcq := 0, addSpace := false,
      nonempty := false, charBuf := 0, last := 0, outLen := 0 } } .ok 0 []) ∧
  EncodedBare 0x40#8 .mpReset

/-- spec/44_meatpack.md R254, R255, R257 to R259: MP_FEED runs every byte through the unpacker, in order, and answers its
output; a byte is a signal, a command, data, a full character or a packed byte as the rules say. Where 32 bits hold the
length of the text, that is the count and nothing else changes; where they do not, the count is a free value (log entry
7). -/
def Obligations.MpFeedRule : Prop :=
  EncodedAny 0x41#8 .mpFeed ∧
  (∀ (din : List Byte) (s : State),
    ((s.mpu.feed s.mpNlSkip din).dout.length < 2 ^ 32 →
      exec (.mpFeed din) s = answer { s with mpu := (s.mpu.feed s.mpNlSkip din).unit } .ok
        (s.mpu.feed s.mpNlSkip din).dout.length (s.mpu.feed s.mpNlSkip din).dout) ∧
    ∃ t n, exec (.mpFeed din) s = answer t .ok n (s.mpu.feed s.mpNlSkip din).dout ∧
      t.mpu = (s.mpu.feed s.mpNlSkip din).unit) ∧
  (∀ (nl : Bool) (m : Mpu), m.feed nl [] = quiet m) ∧
  (∀ (nl : Bool) (c : Byte) (cs : List Byte) (m : Mpu), m.feed nl (c :: cs) = seq (m.byte nl c) (Mpu.feed nl cs)) ∧
  (∀ (nl : Bool) (c : Byte) (m : Mpu), ByteRule nl c m ∧ RxRule nl c m ∧ UnpackRule nl c m) ∧
  ∀ (nl : Bool) (d : List Byte), mpDecode nl d = (Mpu.feed nl d
    { packing := false, nospace := false, cmdCount := false, cmdActive := false, fcq := 0, addSpace := false,
      nonempty := false, charBuf := 0, last := 0, outLen := 0 }).dout

/-- spec/44_meatpack.md R256: feeding in any split gives the same unit and the outputs together. -/
def Obligations.MpFeedChunks : Prop :=
  ∀ (nl : Bool) (m : Mpu) (chunks : List (List Byte)),
    (m.feed nl chunks.flatten).unit = chunks.foldl (fun u c => (u.feed nl c).unit) m ∧
    (m.feed nl chunks.flatten).dout = (chunks.foldl (fun a c => seq a (Mpu.feed nl c)) (quiet m)).dout

/-- spec/44_meatpack.md R260: what one character outputs and what it leaves. -/
def Obligations.MpEmitRule : Prop :=
  ∀ (ch : Byte) (m : Mpu),
    ∃ line space : Bool,
      line = (if ch = 0x47#8 ∧ (m.nonempty = false ∨ m.last = 0x0A#8) then true
        else if ch = 0x0A#8 then false else m.addSpace) ∧
      (space = true ↔ line = true ∧ (m.nonempty = false ∨ m.last ≠ 0x20#8) ∧
        ch ∈ [0x58#8, 0x59#8, 0x5A#8, 0x45#8, 0x46#8, 0x49#8, 0x4A#8, 0x52#8, 0x50#8, 0x57#8, 0x48#8, 0x43#8,
          0x41#8]) ∧
      (m.emit ch).dout = (if space then [0x20#8] else []) ++
        (if ch = 0x0A#8 ∧ m.nonempty = true ∧ m.last = 0x0A#8 then [] else [ch]) ∧
      (m.emit ch).unit = { m with
        addSpace := line
        nonempty := true
        last := ch
        outLen := m.outLen + BitVec.ofNat 32 (m.emit ch).dout.length }

/-- spec/44_meatpack.md R251, R252, spec/30_encoding.md R114, R117: the symbols and the commands. -/
def Obligations.MpTables : Prop :=
  (∀ m : Mpu, (List.range 15).map (fun n => m.sym (BitVec.ofNat 4 n)) =
    [0x30, 0x31, 0x32, 0x33, 0x34, 0x35, 0x36, 0x37, 0x38, 0x39, 0x2E, if m.nospace then 0x45 else 0x20, 0x0A, 0x47,
      0x58]) ∧
  (∀ m : Mpu, m.command 0xFB = { m with packing := true } ∧ m.command 0xFA = { m with packing := false } ∧
    m.command 0xF9 = { m with packing := false } ∧ m.command 0xF7 = { m with nospace := true } ∧
    m.command 0xF6 = { m with nospace := false }) ∧
  ∀ (m : Mpu) (c : Byte), c ∉ [0xFB#8, 0xFA#8, 0xF9#8, 0xF7#8, 0xF6#8] → m.command c = m

/-- spec/44_meatpack.md R260: the text of a stream never has a newline after a newline. -/
def Obligations.MpNoDoubleNewline : Prop :=
  ∀ (nl : Bool) (s : List Byte), (mpDecode nl s).IsChain (fun a b => ¬ (a = 0x0A#8 ∧ b = 0x0A#8))

/-! ## FD -/

/-- spec/45_framing_dispatcher.md R293 (the route of an empty FD.ROUTE is left open). -/
def Obligations.FdStartRule : Prop :=
  EncodedBare 0x50#8 .fdStart ∧
  ∀ s, ∃ k, exec .fdStart s = answer { s with fd :=
    { phase := .fileHdr, cursor := 0, magic := 0, version := 0, ckKind := 0, error := .none, eof := false,
      abortReq := false, magicOk := false, misuse := false, hdrDone := false, src := [], btype := 0, comp := 0,
      busize := 0, bcsize := 0, bparam := 0, bcrc := 0, pay := [], dec := [], route := [], routeKind := k,
      results := [] } } .ok 0 []

/-- spec/45_framing_dispatcher.md R294, R295: FD_PUSH appends and FD_EOF marks the end in the phases FILE_HDR to CRC
before FD_EOF, and are MISUSE otherwise. Counting the 2^64 bytes of a source from FD_START is the model's reading (log
entry 11). -/
def Obligations.FdPushAndEofRules : Prop :=
  EncodedAny 0x51#8 .fdPush ∧ EncodedBare 0x52#8 .fdEof ∧
  ∀ (din : List Byte) (s : State),
    exec (.fdPush din) s =
      (if ¬ (s.fd.phase = .fileHdr ∨ s.fd.phase = .blkHdr ∨ s.fd.phase.inBlock) ∨ s.fd.eof = true then
        answer { s with fd := { s.fd with misuse := true } } .misuse 0 []
      else if 2 ^ 64 ≤ s.fd.cursor.toNat + s.fd.src.length + din.length then .refused .sourceTooLong
      else answer { s with fd := { s.fd with src := s.fd.src ++ din } } .ok din.length []) ∧
    exec .fdEof s =
      (if ¬ (s.fd.phase = .fileHdr ∨ s.fd.phase = .blkHdr ∨ s.fd.phase.inBlock) ∨ s.fd.eof = true then
        answer { s with fd := { s.fd with misuse := true } } .misuse 0 []
      else answer { s with fd := { s.fd with eof := true } } .ok 0 [])

/-- spec/45_framing_dispatcher.md R296. -/
def Obligations.FdAbortRule : Prop :=
  EncodedBare 0x54#8 .fdAbort ∧
  ∀ s : State,
    exec .fdAbort s =
      if s.fd.phase = .fileHdr ∨ s.fd.phase = .blkHdr ∨ s.fd.phase.inBlock then
        answer { s with fd := { s.fd with abortReq := true } } .ok 0 []
      else answer s .ok 0 []

/-- spec/45_framing_dispatcher.md R314, spec/30_encoding.md R116: in DONE, a record's 36-byte descriptor, field by field,
and its routed bytes; MISUSE outside DONE or past the records. -/
def Obligations.FdResultRule : Prop :=
  (∀ imm din s, execute (cmd 0x55#8 imm din) s = if din = [] then exec (.fdResult imm) s else illegal s) ∧
  ∀ (i : BitVec 24) (s : State),
    (s.fd.phase ≠ .done ∨ s.fd.nblocks.toNat ≤ i.toNat →
      exec (.fdResult i) s = answer { s with fd := { s.fd with misuse := true } } .misuse 0 []) ∧
    (s.fd.phase = .done → i.toNat < s.fd.nblocks.toNat →
      ∃ (r : BlockRecord) (d : List Byte), s.fd.results[i.toNat]? = some r ∧
        exec (.fdResult i) s = answer s .ok (36 + r.routed.length) (d ++ r.routed) ∧ d.length = 36 ∧
        le16 d 0 = r.btype ∧ le16 d 2 = r.comp ∧ le32 d 4 = r.usize ∧ le32 d 8 = r.csize ∧
        leNat ((d.drop 12).take 6) = r.params.toNat ∧ le16 d 18 = r.ckKind ∧
        (d.getD 20 0).toNat = bit r.valid ∧ (d.getD 21 0).toNat = bit r.sizeMismatch ∧
        d.getD 22 0 = (match r.route with | .ini => 0 | .text => 1 | .image => 2) ∧ d.getD 23 0 = 0 ∧
        le32 d 24 = r.storedCrc ∧ le32 d 28 = r.computedCrc ∧ le32 d 32 = r.decLen)

/-- spec/45_framing_dispatcher.md R299 to R301, spec/60_exceptions.md R356, R358: a step in the phases FILE_HDR and
BLK_HDR. The route of an emptied FD.ROUTE is the model's choice (log entry 12). -/
def Obligations.FdHeaderPhases : Prop :=
  EncodedBare 0x53#8 .fdStep ∧
  (∀ (d : List Byte) (i : Nat), le16 d i = d.getD (i + 1) 0 ++ d.getD i 0) ∧
  (∀ s : State, s.fd.phase = .fileHdr → exec .fdStep s =
    phaseRead 10 .truncFileHdr s fun h f =>
      if 1 < (le16 h 8).toNat then
        fatal .badCkKind s { f with
          magic := le32 h 0, version := le32 h 4, ckKind := le16 h 8,
          magicOk := decide (h.take 4 = [0x47, 0x43, 0x44, 0x45]) } 10
      else
        phaseOk s { f with
          magic := le32 h 0, version := le32 h 4, ckKind := le16 h 8,
          magicOk := decide (h.take 4 = [0x47, 0x43, 0x44, 0x45]), hdrDone := true, phase := .blkHdr } 10) ∧
  ∀ s : State, s.fd.phase = .blkHdr → exec .fdStep s =
    if s.fd.abortReq = true then
      answer { s with fd := { s.fd with
        results := [], pay := [], dec := [], route := [], routeKind := .ini, phase := .cancelled } } .cancelled 0 []
    else if s.fd.eof = true ∧ s.fd.src = [] then answer { s with fd := { s.fd with phase := .done } } .done 0 []
    else
      phaseRead 8 .truncBlockHdr s fun h f =>
        let g := { f with
          bparam := 0, bcsize := 0, pay := [], dec := [], route := [], routeKind := .ini, btype := le16 h 0,
          comp := le16 h 2, busize := le32 h 4, bcrc := crcUpdate 0 h }
        if 5 < (le16 h 0).toNat then fatal .badType s g 8
        else if 3 < (le16 h 2).toNat then fatal .badCompression s g 8
        else phaseOk s { g with phase := if le16 h 2 ≠ 0 then .blkCSize else .params } 8

/-- spec/45_framing_dispatcher.md R302 to R304 and R307: a step in the phases BLK_CSIZE, PARAMS, PAYLOAD and CRC. The
route of an emptied FD.ROUTE is the model's choice (log entry 12). -/
def Obligations.FdBodyPhases : Prop :=
  (∀ s : State, s.fd.phase = .blkCSize → exec .fdStep s =
    phaseRead 4 .truncBlockHdr s fun c f =>
      phaseOk s { f with bcsize := le32 c 0, bcrc := crcUpdate s.fd.bcrc c, phase := .params } 4) ∧
  (∀ s : State, s.fd.phase = .params → exec .fdStep s =
    phaseRead (if s.fd.btype = 5 then 6 else 2) .truncParams s fun p f =>
      phaseOk s { f with
          bparam := BitVec.ofNat 48 (leNat p), bcrc := crcUpdate s.fd.bcrc p, phase := .payload }
        (if s.fd.btype = 5 then 6 else 2)) ∧
  (∀ s : State, s.fd.phase = .payload → exec .fdStep s =
    phaseRead (if s.fd.comp ≠ 0 then s.fd.bcsize.toNat else s.fd.busize.toNat) .truncPayload s fun p f =>
      phaseOk s { f with pay := p, bcrc := crcUpdate s.fd.bcrc p, phase := .decode }
        (if s.fd.comp ≠ 0 then s.fd.bcsize.toNat else s.fd.busize.toNat)) ∧
  ∀ s : State, s.fd.phase = .crc → exec .fdStep s =
    phaseRead 4 .truncCrc s fun t f =>
      phaseOk s (withRecord f (recordOf f s.fd.routeKind s.fd.dec s.fd.route (decide (le32 t 0 = s.fd.bcrc)) (le32 t 0)
        s.fd.bcrc)) 4

/-- spec/45_framing_dispatcher.md R305, R306: a step in the phase DECODE, for every compression code, block type and
encoding, and the blocks that D60 puts outside the model. The route of an emptied FD.ROUTE (log entry 12) and the
refusal of too long decoded bytes before the content checks (log entry 11) are the model's choices, and so are the list of
INFLATE calls (log entry 2) and the prepared answers that the two oracles give first (R308, R309; log entry 3). -/
def Obligations.FdDecodePhase : Prop :=
  (∀ (s : State) (b : List Byte),
    s.inflateCalled b = { s with host := (s.inflateCalled b).host } ∧
    (s.inflateCalled b).host.inflateCalls = s.host.inflateCalls ++ [b] ∧
    (s.inflateCalled b).host.events = s.host.events ∧
    (∀ a rest, s.host.inflateAnswers = a :: rest →
      s.inflateAnswer b = a ∧ (s.inflateCalled b).host.inflateAnswers = rest) ∧
    ∀ (f w h : BitVec 16) (a : Bool) (rest : List Bool), s.host.imageAnswers = a :: rest →
      s.imageAnswer f w h b = a ∧ (s.imageCalled f w h b).host.imageAnswers = rest) ∧
  (∀ s : State, s.fd.phase = .decode → s.fd.comp = 1 → s.inflateAnswer s.fd.pay = none →
    exec .fdStep s = fatal .ext (s.inflateCalled s.fd.pay) s.fd 0) ∧
  (∀ s : State, Oversized s → exec .fdStep s = .refused .blockTooLong) ∧
  ∀ (s t : State) (d : List Byte), s.fd.phase = .decode → DecodesTo s d t → d.length ≤ 2 ^ 32 - 37 →
    (s.fd.btype = 1 → 2 < (s.fd.bparam.extractLsb' 0 16).toNat → exec .fdStep s = fatal .badEncoding t s.fd 0) ∧
    (s.fd.btype = 1 → s.fd.bparam.extractLsb' 0 16 = 0 → exec .fdStep s = decoded (delivered t (.text d)) .text d d) ∧
    (s.fd.btype = 1 → (s.fd.bparam.extractLsb' 0 16 = 1 ∨ s.fd.bparam.extractLsb' 0 16 = 2) →
      (mpDecode s.mpNlSkip d).length ≤ 2 ^ 32 - 37 →
        exec .fdStep s = decoded (delivered t (.text (mpDecode s.mpNlSkip d))) .text d (mpDecode s.mpNlSkip d)) ∧
    (s.fd.btype = 5 → s.fd.bparam.extractLsb' 0 16 = 1 → exec .fdStep s = fatal .unsupportedFormat t s.fd 0) ∧
    (s.fd.btype = 5 → 2 < (s.fd.bparam.extractLsb' 0 16).toNat → exec .fdStep s = fatal .badFormat t s.fd 0) ∧
    (s.fd.btype = 5 → (s.fd.bparam.extractLsb' 0 16 = 0 ∨ s.fd.bparam.extractLsb' 0 16 = 2) →
      ∃ u : State,
        u = t.imageCalled (s.fd.bparam.extractLsb' 0 16) (s.fd.bparam.extractLsb' 16 16)
          (s.fd.bparam.extractLsb' 32 16) d ∧
        u.host.events = t.host.events ++ [.image (s.fd.bparam.extractLsb' 0 16) (s.fd.bparam.extractLsb' 16 16)
          (s.fd.bparam.extractLsb' 32 16) d] ∧
        exec .fdStep s =
          if t.imageAnswer (s.fd.bparam.extractLsb' 0 16) (s.fd.bparam.extractLsb' 16 16)
              (s.fd.bparam.extractLsb' 32 16) d = true then decoded u .image d d
          else fatal .ext u s.fd 0) ∧
    (s.fd.btype ≠ 1 → s.fd.btype ≠ 5 → s.fd.bparam.extractLsb' 0 16 ≠ 0 →
      exec .fdStep s = fatal .badEncoding t s.fd 0) ∧
    (s.fd.btype ≠ 1 → s.fd.btype ≠ 5 → s.fd.bparam.extractLsb' 0 16 = 0 →
      exec .fdStep s = decoded (delivered t (.ini d)) .ini d d)

/-- spec/45_framing_dispatcher.md R313: DONE, ERROR and CANCELLED are left only by FD_START and RESET_ALL. -/
def Obligations.TerminalPhasesStay : Prop :=
  ∀ (s : State) (st : Status),
    ((s.fd.phase = .done ∧ st = .done) ∨ (s.fd.phase = .error ∧ st = .fatal) ∨
      (s.fd.phase = .cancelled ∧ st = .cancelled)) →
    (∀ i t, exec i s = .next t → i ≠ .fdStart → i ≠ .resetAll → t.fd.phase = s.fd.phase) ∧
    exec .fdStep s = answer s st 0 [] ∧ exec .fdRun s = answer s st 0 [] ∧
    (∀ din, exec (.fdPush din) s = answer { s with fd := { s.fd with misuse := true } } .misuse 0 []) ∧
    exec .fdEof s = answer { s with fd := { s.fd with misuse := true } } .misuse 0 [] ∧
    exec .fdAbort s = answer s .ok 0 [] ∧
    (s.fd.phase ≠ .done → ∀ i, exec (.fdResult i) s =
      answer { s with fd := { s.fd with misuse := true } } .misuse 0 [])

/-- spec/45_framing_dispatcher.md R312, spec/70_reset_and_hazards.md R387: FD_RUN is FD_STEP until a step answers
something other than OK, and never OK itself; from every state it ends so, or is refused where a step on its way is; in
IDLE it is MISUSE. That such an FD_RUN is refused whole is the model's reading (log entry 11). -/
def Obligations.FdRunRule : Prop :=
  EncodedBare 0x56#8 .fdRun ∧
  (∀ s t st n, RunsTo s t st n → exec .fdRun s = answer t st n [] ∧ st ≠ .ok) ∧
  (∀ s, (∃ t st n, RunsTo s t st n) ∨ ∃ t r, OkSteps s t ∧ fdStep t = .refused r) ∧
  (∀ s t r, OkSteps s t → fdStep t = .refused r → exec .fdRun s = .refused r) ∧
  ∀ s : State, s.fd.phase = .idle →
    exec .fdStep s = answer { s with fd := { s.fd with misuse := true } } .misuse 0 [] ∧
    exec .fdRun s = answer { s with fd := { s.fd with misuse := true } } .misuse 0 []

/-- spec/45_framing_dispatcher.md R315, R317: a container of property blocks and plain Gcode blocks without compression
parses to DONE, with one record a block in file order, VALID exactly where the stored CRC is right, one delivery a block,
and the cursor at the container's length. -/
def Obligations.PlainContainerParses : Prop :=
  ∀ (bs : List PlainBlock) (s : State),
    (∀ b ∈ bs, b.btype.toNat ≤ 4 ∧ b.payload.length ≤ 2 ^ 32 - 37) → (container bs).length < 2 ^ 64 →
    s.fd = { Fd.started with src := container bs, eof := true } →
      ∃ t : State, exec .fdRun s = answer t .done (container bs).length [] ∧
        t.fd.phase = .done ∧ t.fd.error = .none ∧ t.fd.results = bs.map PlainBlock.record ∧
        t.fd.cursor.toNat = (container bs).length ∧ t.fd.magic = 0x45444347#32 ∧ t.fd.magicOk = true ∧
        t.host.events = s.host.events ++ bs.map PlainBlock.event

/-! ## Invariants -/

/-- Every step keeps the invariant of HSD (spec/10_state.md R24 to R33). The canonical form of the dictionary is the
model's (log entry 10). -/
def Obligations.HsdInvariantKept : Prop := ∀ s t : State, s.hsd.Inv → step s = .next t → t.hsd.Inv

/-- Every step keeps the invariant of HSE (spec/10_state.md R34 to R41). The canonical form of the history is the model's
(log entry 10). -/
def Obligations.HseInvariantKept : Prop := ∀ s t : State, s.hse.Inv → step s = .next t → t.hse.Inv

/-- Every step keeps the invariant of MPU (spec/10_state.md R42 to R45). -/
def Obligations.MpuInvariantKept : Prop := ∀ s t : State, s.mpu.Inv → step s = .next t → t.mpu.Inv

/-- Every step keeps the invariant of FD (spec/10_state.md R46 to R60). The count of a source from FD_START and the route of
an empty FD.ROUTE are the model's (log entries 11 and 12). -/
def Obligations.FdInvariantKept : Prop := ∀ s t : State, s.fd.Inv → step s = .next t → t.fd.Inv
end

