-- ==== Sys2Proof/Laws/Decode.lean ====
section
/-! SUPPORT. The laws of command words and little-endian bytes that encoding and decoding rest on. -/

namespace Sys2Proof

open Machine

@[simp] theorem opcodeOf_commandWord (o : BitVec 8) (i : BitVec 24) : opcodeOf (commandWord o i) = o := by
  ext k hk
  simp only [opcodeOf, commandWord, BitVec.getElem_extractLsb', BitVec.getLsbD_append]
  rw [if_neg (by omega), show 24 + k - 24 = k by omega, BitVec.getLsbD_eq_getElem hk]

@[simp] theorem immOf_commandWord (o : BitVec 8) (i : BitVec 24) : immOf (commandWord o i) = i := by
  ext k hk
  simp only [immOf, commandWord, BitVec.getElem_extractLsb', BitVec.getLsbD_append]
  rw [if_pos (by omega), Nat.zero_add, BitVec.getLsbD_eq_getElem hk]

/-- A command word is its two parts. -/
theorem commandWord_parts (w : Word) : commandWord (opcodeOf w) (immOf w) = w := by
  ext k hk
  simp only [opcodeOf, immOf, commandWord, ← BitVec.getLsbD_eq_getElem, BitVec.getLsbD_append,
    BitVec.getLsbD_extractLsb']
  by_cases h : k < 24
  · simp [h]
  · have h8 : k - 24 < 8 := by omega
    simp [h, h8, show 24 + (k - 24) = k by omega]

@[simp] theorem leBytes_length (n v : Nat) : (leBytes n v).length = n := by
  induction n generalizing v with
  | zero => rfl
  | succ n ih => simp [leBytes, ih]

theorem leNat_leBytes (n v : Nat) : leNat (leBytes n v) = v % 256 ^ n := by
  induction n generalizing v with
  | zero => simp [leBytes, leNat, Nat.mod_one]
  | succ n ih =>
    have h : v % 256 ^ (n + 1) = v % 256 + 256 * (v / 256 % 256 ^ n) := by
      rw [Nat.pow_succ, Nat.mul_comm (256 ^ n) 256, Nat.mod_mul]
    simp only [leBytes, leNat, ih, BitVec.toNat_ofNat, h]

theorem leNat_lt (s : List Byte) : leNat s < 256 ^ s.length := by
  induction s with
  | nil => simp [leNat]
  | cons b s ih =>
    have := b.isLt
    simp only [leNat, List.length_cons, Nat.pow_succ]
    omega

theorem leBytes_leNat (s : List Byte) : leBytes s.length (leNat s) = s := by
  induction s with
  | nil => rfl
  | cons b s ih =>
    have hb := b.isLt
    have h1 : (b.toNat + 256 * leNat s) / 256 = leNat s := by omega
    have h2 : BitVec.ofNat 8 (b.toNat + 256 * leNat s) = b := by
      apply BitVec.eq_of_toNat_eq
      rw [BitVec.toNat_ofNat]
      omega
    simp only [List.length_cons, leNat, leBytes, h1, h2, ih]

/-- Four little-endian bytes read back as the number they were written from. -/
theorem le32_leBytes_append (v : BitVec 32) (t : List Byte) : le32 (leBytes 4 v.toNat ++ t) 0 = v := by
  have h : (leBytes 4 v.toNat ++ t).take 4 = leBytes 4 v.toNat := by
    rw [List.take_append_of_le_length (by simp), List.take_of_length_le (by simp)]
  apply BitVec.eq_of_toNat_eq
  have := v.isLt
  simp only [le32, List.drop_zero, h, leNat_leBytes, BitVec.toNat_ofNat]
  omega

@[simp] theorem le32_leBytes (v : BitVec 32) : le32 (leBytes 4 v.toNat) 0 = v := by
  simpa using le32_leBytes_append v []

@[simp] theorem le32_cfgDin_zero (i o : BitVec 32) : le32 (cfgDin i o) 0 = i := le32_leBytes_append i _

@[simp] theorem le32_cfgDin_four (i o : BitVec 32) : le32 (cfgDin i o) 4 = o := by
  have h : (cfgDin i o).drop 4 = leBytes 4 o.toNat := by
    rw [cfgDin, List.drop_append_of_le_length (by simp), List.drop_of_length_le (by simp), List.nil_append]
  have := le32_leBytes o
  simpa [le32, h] using this

@[simp] theorem cfgDin_length (i o : BitVec 32) : (cfgDin i o).length = 8 := by simp [cfgDin]

/-- A register is found by its own number, and by no other (spec/10_state.md R20). -/
@[simp] theorem Reg.ofNumber_number (r : Reg) : Reg.ofNumber r.number = some r := by
  cases r <;> decide

theorem Reg.number_of_ofNumber {n : BitVec 12} {r : Reg} (h : Reg.ofNumber n = some r) : r.number = n := by
  have := List.find?_some h
  simpa using this

end Sys2Proof
end

