-- ==== Sys2Proof/Laws/Memory.lean ====
section
/-! SUPPORT. The laws of the internal memories: what a write changes and what it leaves, what a shift moves, that every
operation keeps the canonical form, and that canonical memories with equal reads are equal. -/

namespace Sys2Proof.Machine

@[simp] theorem memRead_nil (x : Nat) : memRead [] x = unlistedByte := rfl

@[simp] theorem memRead_cons (a : Nat) (b : Byte) (m : Memory) (x : Nat) :
    memRead ((a, b) :: m) x = if a = x then b else memRead m x := rfl

/-- Below every listed offset a memory reads as unlisted. -/
theorem memRead_of_lt {m : Memory} {x : Nat} (h : ∀ c ∈ m, x < c.1) : memRead m x = unlistedByte := by
  induction m with
  | nil => rfl
  | cons c m ih =>
    obtain ⟨a, b⟩ := c
    have ha : x < a := h (a, b) (by simp)
    rw [memRead_cons, if_neg (by omega)]
    exact ih fun d hd => h d (by simp [hd])

theorem Memory.wf_nil (size : Nat) : Memory.wf size [] := by simp [Memory.wf]

theorem Memory.wf_cons {size a : Nat} {b : Byte} {m : Memory} :
    Memory.wf size ((a, b) :: m) ↔
      (∀ c ∈ m, a < c.1) ∧ (a < size ∧ b ≠ unlistedByte) ∧ Memory.wf size m := by
  simp only [Memory.wf, List.pairwise_cons, List.mem_cons, forall_eq_or_imp]
  tauto

/-- A write is read back at its offset. -/
theorem memRead_memWrite_same {m : Memory} {x : Nat} {v : Byte} (h : m.Pairwise (fun c d => c.1 < d.1)) :
    memRead (memWrite m x v) x = v := by
  induction m with
  | nil => by_cases hv : v = unlistedByte <;> simp [memWrite, hv]
  | cons c m ih =>
    obtain ⟨a, b⟩ := c
    rw [List.pairwise_cons] at h
    have hlow : x ≤ a → memRead m x = unlistedByte := fun hx =>
      memRead_of_lt fun d hd => lt_of_le_of_lt hx (h.1 d hd)
    unfold memWrite
    split_ifs with h1 h2 h3 h4
    · subst h2; rw [memRead_cons, if_neg (by omega)]; exact hlow (by omega)
    · simp
    · subst h4; exact hlow (by omega)
    · subst h3; simp
    · rw [memRead_cons, if_neg (fun e => h3 e.symm)]; exact ih h.2

/-- A write leaves every other offset alone. -/
theorem memRead_memWrite_other {m : Memory} {x y : Nat} {v : Byte} (hxy : y ≠ x) :
    memRead (memWrite m x v) y = memRead m y := by
  induction m with
  | nil => by_cases hv : v = unlistedByte <;> simp [memWrite, hv, Ne.symm hxy]
  | cons c m ih =>
    obtain ⟨a, b⟩ := c
    unfold memWrite
    split_ifs with h1 h2 h3 h4
    · rfl
    · rw [memRead_cons, if_neg (Ne.symm hxy)]
    · subst h3; rw [memRead_cons, if_neg (Ne.symm hxy)]
    · subst h3; rw [memRead_cons, memRead_cons, if_neg (Ne.symm hxy), if_neg (Ne.symm hxy)]
    · rw [memRead_cons, memRead_cons, ih]

/-- Every offset a write lists was listed before or is the one written. -/
theorem mem_memWrite {m : Memory} {x : Nat} {v : Byte} {c : Host.Cell} (hc : c ∈ memWrite m x v) :
    c ∈ m ∨ (c = (x, v) ∧ v ≠ unlistedByte) := by
  induction m with
  | nil =>
    by_cases hv : v = unlistedByte
    · simp [memWrite, hv] at hc
    · simp only [memWrite, hv, if_false, List.mem_singleton] at hc; exact .inr ⟨hc, hv⟩
  | cons d m ih =>
    obtain ⟨a, b⟩ := d
    unfold memWrite at hc
    split_ifs at hc with h1 h2 h3 h4
    · exact .inl hc
    · rcases List.mem_cons.1 hc with e | e
      · exact .inr ⟨e, h2⟩
      · exact .inl e
    · exact .inl (List.mem_cons_of_mem _ hc)
    · rcases List.mem_cons.1 hc with e | e
      · exact .inr ⟨by rw [e, h3], h4⟩
      · exact .inl (List.mem_cons_of_mem _ e)
    · rcases List.mem_cons.1 hc with e | e
      · exact .inl (by simp [e])
      · rcases ih e with e' | e'
        · exact .inl (List.mem_cons_of_mem _ e')
        · exact .inr e'

/-- A write keeps the canonical form. -/
theorem Memory.wf_memWrite {size x : Nat} {m : Memory} {v : Byte} (h : Memory.wf size m) (hx : x < size) :
    Memory.wf size (memWrite m x v) := by
  induction m with
  | nil => by_cases hv : v = unlistedByte <;> simp [Memory.wf, memWrite, hv, hx]
  | cons c m ih =>
    obtain ⟨a, b⟩ := c
    obtain ⟨h1, h2, h3⟩ := Memory.wf_cons.1 h
    unfold memWrite
    split_ifs with g1 g2 g3 g4
    · exact h
    · refine Memory.wf_cons.2 ⟨?_, ⟨hx, g2⟩, h⟩
      intro c hc
      rcases List.mem_cons.1 hc with e | e
      · rw [e]; exact g1
      · exact lt_trans g1 (h1 c e)
    · exact h3
    · exact Memory.wf_cons.2 ⟨h1, ⟨h2.1, g4⟩, h3⟩
    · refine Memory.wf_cons.2 ⟨?_, h2, ih h3⟩
      intro c hc
      rcases mem_memWrite hc with e | ⟨e, -⟩
      · exact h1 c e
      · rw [e]; simp only; omega

/-- Every entry of a memory moved down was one offset higher before. -/
theorem mem_memDown {m : Memory} {c : Host.Cell} (hc : c ∈ memDown m) : (c.1 + 1, c.2) ∈ m := by
  induction m with
  | nil => simp [memDown] at hc
  | cons d m ih =>
    obtain ⟨a, b⟩ := d
    cases a with
    | zero => exact List.mem_cons_of_mem _ (ih (by simpa [memDown] using hc))
    | succ a =>
      rcases List.mem_cons.1 (by simpa [memDown] using hc : c ∈ (a, b) :: memDown m) with e | e
      · simp [e]
      · exact List.mem_cons_of_mem _ (ih e)

/-- A memory moved down reads what stood one offset higher. -/
theorem memRead_memDown (m : Memory) (x : Nat) : memRead (memDown m) x = memRead m (x + 1) := by
  induction m with
  | nil => rfl
  | cons c m ih =>
    obtain ⟨a, b⟩ := c
    cases a with
    | zero => simp [memDown, ih]
    | succ a => simp [memDown, ih]

/-- Moving down keeps the canonical form, one offset shorter. -/
theorem Memory.wf_memDown {size : Nat} {m : Memory} (h : Memory.wf (size + 1) m) : Memory.wf size (memDown m) := by
  induction m with
  | nil => exact Memory.wf_nil size
  | cons c m ih =>
    obtain ⟨a, b⟩ := c
    obtain ⟨h1, h2, h3⟩ := Memory.wf_cons.1 h
    cases a with
    | zero => exact ih h3
    | succ a =>
      refine Memory.wf_cons.2 ⟨?_, ⟨by omega, h2.2⟩, ih h3⟩
      intro c hc
      have := h1 _ (mem_memDown hc)
      simp only at this
      omega

/-- A canonical memory larger in size only. -/
theorem Memory.wf_mono {size size' : Nat} {m : Memory} (h : Memory.wf size m) (hs : size ≤ size') :
    Memory.wf size' m :=
  ⟨h.1, fun c hc => ⟨lt_of_lt_of_le (h.2 c hc).1 hs, (h.2 c hc).2⟩⟩

/-- Shifting a byte in keeps the canonical form. -/
theorem Memory.wf_memShift {size : Nat} {m : Memory} {b : Byte} (hs : 0 < size) (h : Memory.wf size m) :
    Memory.wf size (memShift size m b) := by
  obtain ⟨n, rfl⟩ : ∃ n, size = n + 1 := ⟨size - 1, by omega⟩
  exact Memory.wf_memWrite (Memory.wf_mono (Memory.wf_memDown h) (by omega)) (by omega)

/-- Shifting bytes in keeps the canonical form. -/
theorem Memory.wf_memShiftAll {size : Nat} {m : Memory} {bs : List Byte} (hs : 0 < size) (h : Memory.wf size m) :
    Memory.wf size (memShiftAll size m bs) := by
  induction bs generalizing m with
  | nil => exact h
  | cons b bs ih => exact ih (Memory.wf_memShift hs h)

/-- After a shift the newest offset reads the byte shifted in, and every other one what stood one offset higher. -/
theorem memRead_memShift {size : Nat} {m : Memory} {b : Byte} (hs : 0 < size) (h : Memory.wf size m) (x : Nat) :
    memRead (memShift size m b) x = if x = size - 1 then b else memRead m (x + 1) := by
  obtain ⟨n, rfl⟩ : ∃ n, size = n + 1 := ⟨size - 1, by omega⟩
  unfold memShift
  split_ifs with hx
  · subst hx; exact memRead_memWrite_same (Memory.wf_memDown h).1
  · rw [memRead_memWrite_other hx, memRead_memDown]

/-- Canonical memories that read the same everywhere are equal. -/
theorem Memory.ext_of_wf {size : Nat} {m m' : Memory} (h : Memory.wf size m) (h' : Memory.wf size m')
    (he : ∀ x, memRead m x = memRead m' x) : m = m' := by
  induction m generalizing m' with
  | nil =>
    cases m' with
    | nil => rfl
    | cons c m' =>
      obtain ⟨a, b⟩ := c
      have := he a
      simp only [memRead_nil, memRead_cons, if_true] at this
      exact absurd this.symm (Memory.wf_cons.1 h').2.1.2
  | cons c m ih =>
    obtain ⟨a, b⟩ := c
    obtain ⟨h1, h2, h3⟩ := Memory.wf_cons.1 h
    cases m' with
    | nil =>
      have := he a
      simp only [memRead_nil, memRead_cons, if_true] at this
      exact absurd this h2.2
    | cons c' m' =>
      obtain ⟨a', b'⟩ := c'
      obtain ⟨h1', h2', h3'⟩ := Memory.wf_cons.1 h'
      have ha : a = a' := by
        rcases lt_trichotomy a a' with hlt | heq | hgt
        · have := he a
          rw [memRead_cons, if_pos rfl, memRead_cons, if_neg (by omega),
            memRead_of_lt fun d hd => lt_trans hlt (h1' d hd)] at this
          exact absurd this h2.2
        · exact heq
        · have := he a'
          rw [memRead_cons, if_neg (by omega), memRead_of_lt fun d hd => lt_trans hgt (h1 d hd), memRead_cons,
            if_pos rfl] at this
          exact absurd this.symm h2'.2
      subst ha
      have hb : b = b' := by simpa using he a
      subst hb
      congr 1
      refine ih h3 h3' fun x => ?_
      by_cases hx : a = x
      · subst hx; rw [memRead_of_lt h1, memRead_of_lt h1']
      · simpa [hx] using he x

/-- The memories of the reset state have the canonical form, of any size. -/
theorem State.reset_memories_wf (n m : Nat) :
    Memory.wf n State.reset.hsd.dict ∧ Memory.wf m State.reset.hse.hist :=
  ⟨Memory.wf_nil n, Memory.wf_nil m⟩

end Sys2Proof.Machine
end

