-- ==== Sys2Proof/Laws/PerInstr.lean ====
section
/-! SUPPORT. Per instruction: the word an instruction is encoded as lies in its own row of spec/opcode_table.json. -/

namespace Sys2Proof.Laws

/-- A row of spec/opcode_table.json: a word selects it when `word & mask = matchBits` (spec/30_encoding.md R92). -/
structure Row where
  matchBits : BitVec 32
  mask : BitVec 32
deriving DecidableEq, Repr

/-- The row of spec/opcode_table.json that each instruction stands in. -/
def rowOf : Instr → Row
  | .nop => ⟨0x00000000#32, 0xFFFFFFFF#32⟩
  | .resetAll => ⟨0x01000000#32, 0xFFFFFFFF#32⟩
  | .rdreg _ => ⟨0x02000000#32, 0xFFFFF000#32⟩
  | .crcClear => ⟨0x10000000#32, 0xFFFFFFFF#32⟩
  | .crcLoad _ => ⟨0x11000000#32, 0xFFFFFFFF#32⟩
  | .crcByte _ => ⟨0x12000000#32, 0xFFFFFF00#32⟩
  | .crcSpan _ => ⟨0x13000000#32, 0xFFFFFFFF#32⟩
  | .crcRead => ⟨0x14000000#32, 0xFFFFFFFF#32⟩
  | .hsdCfg _ _ _ _ => ⟨0x20000000#32, 0xFFFFFF00#32⟩
  | .hsdSink _ => ⟨0x21000000#32, 0xFFFFFFFF#32⟩
  | .hsdPoll => ⟨0x22000000#32, 0xFFFFFFFF#32⟩
  | .hsdFinish => ⟨0x23000000#32, 0xFFFFFFFF#32⟩
  | .hsdReset => ⟨0x24000000#32, 0xFFFFFFFF#32⟩
  | .hseCfg _ _ _ _ => ⟨0x30000000#32, 0xFFFFFF00#32⟩
  | .hseSink _ => ⟨0x31000000#32, 0xFFFFFFFF#32⟩
  | .hsePoll => ⟨0x32000000#32, 0xFFFFFFFF#32⟩
  | .hseFinish => ⟨0x33000000#32, 0xFFFFFFFF#32⟩
  | .hseReset => ⟨0x34000000#32, 0xFFFFFFFF#32⟩
  | .mpReset => ⟨0x40000000#32, 0xFFFFFFFF#32⟩
  | .mpFeed _ => ⟨0x41000000#32, 0xFFFFFFFF#32⟩
  | .fdStart => ⟨0x50000000#32, 0xFFFFFFFF#32⟩
  | .fdPush _ => ⟨0x51000000#32, 0xFFFFFFFF#32⟩
  | .fdEof => ⟨0x52000000#32, 0xFFFFFFFF#32⟩
  | .fdStep => ⟨0x53000000#32, 0xFFFFFFFF#32⟩
  | .fdAbort => ⟨0x54000000#32, 0xFFFFFFFF#32⟩
  | .fdResult _ => ⟨0x55000000#32, 0xFF000000#32⟩
  | .fdRun => ⟨0x56000000#32, 0xFFFFFFFF#32⟩

/-- Every command word has the bits of its opcode byte under a mask that covers it. -/
theorem commandWord_and_opcode (o : BitVec 8) (i : BitVec 24) : commandWord o i &&& 0xFF000000#32 = commandWord o 0#24 := by
  ext k hk
  simp only [commandWord, ← BitVec.getLsbD_eq_getElem, BitVec.getLsbD_and, BitVec.getLsbD_append]
  by_cases h : k < 24
  · have : (0xFF000000#32).getLsbD k = false := by revert h; revert k; decide
    simp [h, this]
  · have : (0xFF000000#32).getLsbD k = true := by revert h; revert k; decide
    simp [h, this]

/-- The family: an instruction's encoded word selects its own row. -/
def OpcodeRow.Statement (i : Instr) : Prop := (encode i).word &&& (rowOf i).mask = (rowOf i).matchBits

theorem OpcodeRow.nop : OpcodeRow.Statement (.nop) := by
  simp only [OpcodeRow.Statement, encode, rowOf]
  decide

theorem OpcodeRow.resetAll : OpcodeRow.Statement (.resetAll) := by
  simp only [OpcodeRow.Statement, encode, rowOf]
  decide

theorem OpcodeRow.rdreg (r : Reg) : OpcodeRow.Statement (.rdreg r) := by
  unfold OpcodeRow.Statement
  cases r <;> decide

theorem OpcodeRow.crcClear : OpcodeRow.Statement (.crcClear) := by
  simp only [OpcodeRow.Statement, encode, rowOf]
  decide

theorem OpcodeRow.crcLoad (v : BitVec 32) : OpcodeRow.Statement (.crcLoad v) := by
  simp only [OpcodeRow.Statement, encode, rowOf]
  decide

theorem OpcodeRow.crcByte (b : Byte) : OpcodeRow.Statement (.crcByte b) := by
  revert b; unfold OpcodeRow.Statement; decide +kernel

theorem OpcodeRow.crcSpan (din : List Byte) : OpcodeRow.Statement (.crcSpan din) := by
  simp only [OpcodeRow.Statement, encode, rowOf]
  decide

theorem OpcodeRow.crcRead : OpcodeRow.Statement (.crcRead) := by
  simp only [OpcodeRow.Statement, encode, rowOf]
  decide

theorem OpcodeRow.hsdCfg (w l : BitVec 4) (inCap outCap : BitVec 32) : OpcodeRow.Statement (.hsdCfg w l inCap outCap) := by
  simp only [OpcodeRow.Statement, encode, rowOf]
  revert w l; decide +kernel

theorem OpcodeRow.hsdSink (din : List Byte) : OpcodeRow.Statement (.hsdSink din) := by
  simp only [OpcodeRow.Statement, encode, rowOf]
  decide

theorem OpcodeRow.hsdPoll : OpcodeRow.Statement (.hsdPoll) := by
  simp only [OpcodeRow.Statement, encode, rowOf]
  decide

theorem OpcodeRow.hsdFinish : OpcodeRow.Statement (.hsdFinish) := by
  simp only [OpcodeRow.Statement, encode, rowOf]
  decide

theorem OpcodeRow.hsdReset : OpcodeRow.Statement (.hsdReset) := by
  simp only [OpcodeRow.Statement, encode, rowOf]
  decide

theorem OpcodeRow.hseCfg (w l : BitVec 4) (inCap outCap : BitVec 32) : OpcodeRow.Statement (.hseCfg w l inCap outCap) := by
  simp only [OpcodeRow.Statement, encode, rowOf]
  revert w l; decide +kernel

theorem OpcodeRow.hseSink (din : List Byte) : OpcodeRow.Statement (.hseSink din) := by
  simp only [OpcodeRow.Statement, encode, rowOf]
  decide

theorem OpcodeRow.hsePoll : OpcodeRow.Statement (.hsePoll) := by
  simp only [OpcodeRow.Statement, encode, rowOf]
  decide

theorem OpcodeRow.hseFinish : OpcodeRow.Statement (.hseFinish) := by
  simp only [OpcodeRow.Statement, encode, rowOf]
  decide

theorem OpcodeRow.hseReset : OpcodeRow.Statement (.hseReset) := by
  simp only [OpcodeRow.Statement, encode, rowOf]
  decide

theorem OpcodeRow.mpReset : OpcodeRow.Statement (.mpReset) := by
  simp only [OpcodeRow.Statement, encode, rowOf]
  decide

theorem OpcodeRow.mpFeed (din : List Byte) : OpcodeRow.Statement (.mpFeed din) := by
  simp only [OpcodeRow.Statement, encode, rowOf]
  decide

theorem OpcodeRow.fdStart : OpcodeRow.Statement (.fdStart) := by
  simp only [OpcodeRow.Statement, encode, rowOf]
  decide

theorem OpcodeRow.fdPush (din : List Byte) : OpcodeRow.Statement (.fdPush din) := by
  simp only [OpcodeRow.Statement, encode, rowOf]
  decide

theorem OpcodeRow.fdEof : OpcodeRow.Statement (.fdEof) := by
  simp only [OpcodeRow.Statement, encode, rowOf]
  decide

theorem OpcodeRow.fdStep : OpcodeRow.Statement (.fdStep) := by
  simp only [OpcodeRow.Statement, encode, rowOf]
  decide

theorem OpcodeRow.fdAbort : OpcodeRow.Statement (.fdAbort) := by
  simp only [OpcodeRow.Statement, encode, rowOf]
  decide

theorem OpcodeRow.fdResult (i : BitVec 24) : OpcodeRow.Statement (.fdResult i) := by
  simp only [OpcodeRow.Statement, encode, rowOf]
  exact (commandWord_and_opcode _ _).trans (by decide)

theorem OpcodeRow.fdRun : OpcodeRow.Statement (.fdRun) := by
  simp only [OpcodeRow.Statement, encode, rowOf]
  decide

end Sys2Proof.Laws
end

