-- ==== Sys2Proof/Laws/State.lean ====
section
/-! SUPPORT. One lemma for each field of each update of the state, true by unfolding: no later proof unfolds an update. -/

namespace Sys2Proof.Machine

/-! ## State -/

@[simp] theorem State.reply_crcAcc (s : State) (st : Status) (n : BitVec 32) (d : List Byte) :
    (s.reply st n d).crcAcc = s.crcAcc := rfl
@[simp] theorem State.reply_hsd (s : State) (st : Status) (n : BitVec 32) (d : List Byte) :
    (s.reply st n d).hsd = s.hsd := rfl
@[simp] theorem State.reply_hse (s : State) (st : Status) (n : BitVec 32) (d : List Byte) :
    (s.reply st n d).hse = s.hse := rfl
@[simp] theorem State.reply_mpu (s : State) (st : Status) (n : BitVec 32) (d : List Byte) :
    (s.reply st n d).mpu = s.mpu := rfl
@[simp] theorem State.reply_fd (s : State) (st : Status) (n : BitVec 32) (d : List Byte) :
    (s.reply st n d).fd = s.fd := rfl
@[simp] theorem State.reply_mpNlSkip (s : State) (st : Status) (n : BitVec 32) (d : List Byte) :
    (s.reply st n d).mpNlSkip = s.mpNlSkip := rfl
@[simp] theorem State.reply_host_pending (s : State) (st : Status) (n : BitVec 32) (d : List Byte) :
    (s.reply st n d).host.pending = s.host.pending := rfl
@[simp] theorem State.reply_host_responses (s : State) (st : Status) (n : BitVec 32) (d : List Byte) :
    (s.reply st n d).host.responses = s.host.responses ++ [⟨st, n, d⟩] := rfl
@[simp] theorem State.reply_host_events (s : State) (st : Status) (n : BitVec 32) (d : List Byte) :
    (s.reply st n d).host.events = s.host.events := rfl
@[simp] theorem State.reply_host_inflateCalls (s : State) (st : Status) (n : BitVec 32) (d : List Byte) :
    (s.reply st n d).host.inflateCalls = s.host.inflateCalls := rfl
@[simp] theorem State.reply_host_inflateAnswers (s : State) (st : Status) (n : BitVec 32) (d : List Byte) :
    (s.reply st n d).host.inflateAnswers = s.host.inflateAnswers := rfl
@[simp] theorem State.reply_host_imageAnswers (s : State) (st : Status) (n : BitVec 32) (d : List Byte) :
    (s.reply st n d).host.imageAnswers = s.host.imageAnswers := rfl
@[simp] theorem State.reply_host_draws (s : State) (st : Status) (n : BitVec 32) (d : List Byte) :
    (s.reply st n d).host.draws = s.host.draws := rfl
@[simp] theorem State.raiseIllegal_crcAcc (s : State) : (s.raiseIllegal).crcAcc = s.crcAcc := rfl
@[simp] theorem State.raiseIllegal_hsd (s : State) : (s.raiseIllegal).hsd = s.hsd := rfl
@[simp] theorem State.raiseIllegal_hse (s : State) : (s.raiseIllegal).hse = s.hse := rfl
@[simp] theorem State.raiseIllegal_mpu (s : State) : (s.raiseIllegal).mpu = s.mpu := rfl
@[simp] theorem State.raiseIllegal_fd (s : State) : (s.raiseIllegal).fd = s.fd := rfl
@[simp] theorem State.raiseIllegal_mpNlSkip (s : State) : (s.raiseIllegal).mpNlSkip = s.mpNlSkip := rfl
@[simp] theorem State.raiseIllegal_host_pending (s : State) : (s.raiseIllegal).host.pending = s.host.pending := rfl
@[simp] theorem State.raiseIllegal_host_responses (s : State) :
    (s.raiseIllegal).host.responses = s.host.responses ++ [⟨.illegal, 0, []⟩] := rfl
@[simp] theorem State.raiseIllegal_host_events (s : State) : (s.raiseIllegal).host.events = s.host.events := rfl
@[simp] theorem State.raiseIllegal_host_inflateCalls (s : State) :
    (s.raiseIllegal).host.inflateCalls = s.host.inflateCalls := rfl
@[simp] theorem State.raiseIllegal_host_inflateAnswers (s : State) :
    (s.raiseIllegal).host.inflateAnswers = s.host.inflateAnswers := rfl
@[simp] theorem State.raiseIllegal_host_imageAnswers (s : State) :
    (s.raiseIllegal).host.imageAnswers = s.host.imageAnswers := rfl
@[simp] theorem State.raiseIllegal_host_draws (s : State) : (s.raiseIllegal).host.draws = s.host.draws := rfl
@[simp] theorem State.raiseHsdMisuse_crcAcc (s : State) : (s.raiseHsdMisuse).crcAcc = s.crcAcc := rfl
@[simp] theorem State.raiseHsdMisuse_hsd (s : State) : (s.raiseHsdMisuse).hsd = { s.hsd with misuse := true } := rfl
@[simp] theorem State.raiseHsdMisuse_hse (s : State) : (s.raiseHsdMisuse).hse = s.hse := rfl
@[simp] theorem State.raiseHsdMisuse_mpu (s : State) : (s.raiseHsdMisuse).mpu = s.mpu := rfl
@[simp] theorem State.raiseHsdMisuse_fd (s : State) : (s.raiseHsdMisuse).fd = s.fd := rfl
@[simp] theorem State.raiseHsdMisuse_mpNlSkip (s : State) : (s.raiseHsdMisuse).mpNlSkip = s.mpNlSkip := rfl
@[simp] theorem State.raiseHsdMisuse_host_pending (s : State) :
    (s.raiseHsdMisuse).host.pending = s.host.pending := rfl
@[simp] theorem State.raiseHsdMisuse_host_responses (s : State) :
    (s.raiseHsdMisuse).host.responses = s.host.responses ++ [⟨.misuse, 0, []⟩] := rfl
@[simp] theorem State.raiseHsdMisuse_host_events (s : State) : (s.raiseHsdMisuse).host.events = s.host.events := rfl
@[simp] theorem State.raiseHsdMisuse_host_inflateCalls (s : State) :
    (s.raiseHsdMisuse).host.inflateCalls = s.host.inflateCalls := rfl
@[simp] theorem State.raiseHsdMisuse_host_inflateAnswers (s : State) :
    (s.raiseHsdMisuse).host.inflateAnswers = s.host.inflateAnswers := rfl
@[simp] theorem State.raiseHsdMisuse_host_imageAnswers (s : State) :
    (s.raiseHsdMisuse).host.imageAnswers = s.host.imageAnswers := rfl
@[simp] theorem State.raiseHsdMisuse_host_draws (s : State) : (s.raiseHsdMisuse).host.draws = s.host.draws := rfl
@[simp] theorem State.raiseHseMisuse_crcAcc (s : State) : (s.raiseHseMisuse).crcAcc = s.crcAcc := rfl
@[simp] theorem State.raiseHseMisuse_hsd (s : State) : (s.raiseHseMisuse).hsd = s.hsd := rfl
@[simp] theorem State.raiseHseMisuse_hse (s : State) : (s.raiseHseMisuse).hse = { s.hse with misuse := true } := rfl
@[simp] theorem State.raiseHseMisuse_mpu (s : State) : (s.raiseHseMisuse).mpu = s.mpu := rfl
@[simp] theorem State.raiseHseMisuse_fd (s : State) : (s.raiseHseMisuse).fd = s.fd := rfl
@[simp] theorem State.raiseHseMisuse_mpNlSkip (s : State) : (s.raiseHseMisuse).mpNlSkip = s.mpNlSkip := rfl
@[simp] theorem State.raiseHseMisuse_host_pending (s : State) :
    (s.raiseHseMisuse).host.pending = s.host.pending := rfl
@[simp] theorem State.raiseHseMisuse_host_responses (s : State) :
    (s.raiseHseMisuse).host.responses = s.host.responses ++ [⟨.misuse, 0, []⟩] := rfl
@[simp] theorem State.raiseHseMisuse_host_events (s : State) : (s.raiseHseMisuse).host.events = s.host.events := rfl
@[simp] theorem State.raiseHseMisuse_host_inflateCalls (s : State) :
    (s.raiseHseMisuse).host.inflateCalls = s.host.inflateCalls := rfl
@[simp] theorem State.raiseHseMisuse_host_inflateAnswers (s : State) :
    (s.raiseHseMisuse).host.inflateAnswers = s.host.inflateAnswers := rfl
@[simp] theorem State.raiseHseMisuse_host_imageAnswers (s : State) :
    (s.raiseHseMisuse).host.imageAnswers = s.host.imageAnswers := rfl
@[simp] theorem State.raiseHseMisuse_host_draws (s : State) : (s.raiseHseMisuse).host.draws = s.host.draws := rfl
@[simp] theorem State.setFdMisuse_crcAcc (s : State) : (s.setFdMisuse).crcAcc = s.crcAcc := rfl
@[simp] theorem State.setFdMisuse_hsd (s : State) : (s.setFdMisuse).hsd = s.hsd := rfl
@[simp] theorem State.setFdMisuse_hse (s : State) : (s.setFdMisuse).hse = s.hse := rfl
@[simp] theorem State.setFdMisuse_mpu (s : State) : (s.setFdMisuse).mpu = s.mpu := rfl
@[simp] theorem State.setFdMisuse_fd (s : State) : (s.setFdMisuse).fd = { s.fd with misuse := true } := rfl
@[simp] theorem State.setFdMisuse_mpNlSkip (s : State) : (s.setFdMisuse).mpNlSkip = s.mpNlSkip := rfl
@[simp] theorem State.setFdMisuse_host (s : State) : (s.setFdMisuse).host = s.host := rfl
@[simp] theorem State.raiseFdMisuse_crcAcc (s : State) : (s.raiseFdMisuse).crcAcc = s.crcAcc := rfl
@[simp] theorem State.raiseFdMisuse_hsd (s : State) : (s.raiseFdMisuse).hsd = s.hsd := rfl
@[simp] theorem State.raiseFdMisuse_hse (s : State) : (s.raiseFdMisuse).hse = s.hse := rfl
@[simp] theorem State.raiseFdMisuse_mpu (s : State) : (s.raiseFdMisuse).mpu = s.mpu := rfl
@[simp] theorem State.raiseFdMisuse_fd (s : State) : (s.raiseFdMisuse).fd = { s.fd with misuse := true } := rfl
@[simp] theorem State.raiseFdMisuse_mpNlSkip (s : State) : (s.raiseFdMisuse).mpNlSkip = s.mpNlSkip := rfl
@[simp] theorem State.raiseFdMisuse_host_pending (s : State) : (s.raiseFdMisuse).host.pending = s.host.pending := rfl
@[simp] theorem State.raiseFdMisuse_host_responses (s : State) :
    (s.raiseFdMisuse).host.responses = s.host.responses ++ [⟨.misuse, 0, []⟩] := rfl
@[simp] theorem State.raiseFdMisuse_host_events (s : State) : (s.raiseFdMisuse).host.events = s.host.events := rfl
@[simp] theorem State.raiseFdMisuse_host_inflateCalls (s : State) :
    (s.raiseFdMisuse).host.inflateCalls = s.host.inflateCalls := rfl
@[simp] theorem State.raiseFdMisuse_host_inflateAnswers (s : State) :
    (s.raiseFdMisuse).host.inflateAnswers = s.host.inflateAnswers := rfl
@[simp] theorem State.raiseFdMisuse_host_imageAnswers (s : State) :
    (s.raiseFdMisuse).host.imageAnswers = s.host.imageAnswers := rfl
@[simp] theorem State.raiseFdMisuse_host_draws (s : State) : (s.raiseFdMisuse).host.draws = s.host.draws := rfl
@[simp] theorem State.deliver_crcAcc (s : State) (e : PortEvent) : (s.deliver e).crcAcc = s.crcAcc := rfl
@[simp] theorem State.deliver_hsd (s : State) (e : PortEvent) : (s.deliver e).hsd = s.hsd := rfl
@[simp] theorem State.deliver_hse (s : State) (e : PortEvent) : (s.deliver e).hse = s.hse := rfl
@[simp] theorem State.deliver_mpu (s : State) (e : PortEvent) : (s.deliver e).mpu = s.mpu := rfl
@[simp] theorem State.deliver_fd (s : State) (e : PortEvent) : (s.deliver e).fd = s.fd := rfl
@[simp] theorem State.deliver_mpNlSkip (s : State) (e : PortEvent) : (s.deliver e).mpNlSkip = s.mpNlSkip := rfl
@[simp] theorem State.deliver_host_pending (s : State) (e : PortEvent) :
    (s.deliver e).host.pending = s.host.pending := rfl
@[simp] theorem State.deliver_host_responses (s : State) (e : PortEvent) :
    (s.deliver e).host.responses = s.host.responses := rfl
@[simp] theorem State.deliver_host_events (s : State) (e : PortEvent) :
    (s.deliver e).host.events = s.host.events ++ [e] := rfl
@[simp] theorem State.deliver_host_inflateCalls (s : State) (e : PortEvent) :
    (s.deliver e).host.inflateCalls = s.host.inflateCalls := rfl
@[simp] theorem State.deliver_host_inflateAnswers (s : State) (e : PortEvent) :
    (s.deliver e).host.inflateAnswers = s.host.inflateAnswers := rfl
@[simp] theorem State.deliver_host_imageAnswers (s : State) (e : PortEvent) :
    (s.deliver e).host.imageAnswers = s.host.imageAnswers := rfl
@[simp] theorem State.deliver_host_draws (s : State) (e : PortEvent) : (s.deliver e).host.draws = s.host.draws := rfl
@[simp] theorem State.resetUnits_crcAcc (s : State) : (s.resetUnits).crcAcc = 0 := rfl
@[simp] theorem State.resetUnits_hsd (s : State) : (s.resetUnits).hsd = Hsd.cleared := rfl
@[simp] theorem State.resetUnits_hse (s : State) : (s.resetUnits).hse = Hse.cleared := rfl
@[simp] theorem State.resetUnits_mpu (s : State) : (s.resetUnits).mpu = Mpu.cleared := rfl
@[simp] theorem State.resetUnits_fd (s : State) : (s.resetUnits).fd = Fd.cleared := rfl
@[simp] theorem State.resetUnits_mpNlSkip (s : State) : (s.resetUnits).mpNlSkip = s.mpNlSkip := rfl
@[simp] theorem State.resetUnits_host (s : State) : (s.resetUnits).host = s.host := rfl
@[simp] theorem State.withFd_crcAcc (s : State) (f : Fd) : (s.withFd f).crcAcc = s.crcAcc := rfl
@[simp] theorem State.withFd_hsd (s : State) (f : Fd) : (s.withFd f).hsd = s.hsd := rfl
@[simp] theorem State.withFd_hse (s : State) (f : Fd) : (s.withFd f).hse = s.hse := rfl
@[simp] theorem State.withFd_mpu (s : State) (f : Fd) : (s.withFd f).mpu = s.mpu := rfl
@[simp] theorem State.withFd_fd (s : State) (f : Fd) : (s.withFd f).fd = f := rfl
@[simp] theorem State.withFd_mpNlSkip (s : State) (f : Fd) : (s.withFd f).mpNlSkip = s.mpNlSkip := rfl
@[simp] theorem State.withFd_host (s : State) (f : Fd) : (s.withFd f).host = s.host := rfl
@[simp] theorem State.issued_crcAcc (s : State) (cs : List Command) : (s.issued cs).crcAcc = s.crcAcc := rfl
@[simp] theorem State.issued_hsd (s : State) (cs : List Command) : (s.issued cs).hsd = s.hsd := rfl
@[simp] theorem State.issued_hse (s : State) (cs : List Command) : (s.issued cs).hse = s.hse := rfl
@[simp] theorem State.issued_mpu (s : State) (cs : List Command) : (s.issued cs).mpu = s.mpu := rfl
@[simp] theorem State.issued_fd (s : State) (cs : List Command) : (s.issued cs).fd = s.fd := rfl
@[simp] theorem State.issued_mpNlSkip (s : State) (cs : List Command) : (s.issued cs).mpNlSkip = s.mpNlSkip := rfl
@[simp] theorem State.issued_host_pending (s : State) (cs : List Command) : (s.issued cs).host.pending = cs := rfl
@[simp] theorem State.issued_host_responses (s : State) (cs : List Command) :
    (s.issued cs).host.responses = s.host.responses := rfl
@[simp] theorem State.issued_host_events (s : State) (cs : List Command) :
    (s.issued cs).host.events = s.host.events := rfl
@[simp] theorem State.issued_host_inflateCalls (s : State) (cs : List Command) :
    (s.issued cs).host.inflateCalls = s.host.inflateCalls := rfl
@[simp] theorem State.issued_host_inflateAnswers (s : State) (cs : List Command) :
    (s.issued cs).host.inflateAnswers = s.host.inflateAnswers := rfl
@[simp] theorem State.issued_host_imageAnswers (s : State) (cs : List Command) :
    (s.issued cs).host.imageAnswers = s.host.imageAnswers := rfl
@[simp] theorem State.issued_host_draws (s : State) (cs : List Command) :
    (s.issued cs).host.draws = s.host.draws := rfl
@[simp] theorem State.willIssue_crcAcc (s : State) (c : Command) : (s.willIssue c).crcAcc = s.crcAcc := rfl
@[simp] theorem State.willIssue_hsd (s : State) (c : Command) : (s.willIssue c).hsd = s.hsd := rfl
@[simp] theorem State.willIssue_hse (s : State) (c : Command) : (s.willIssue c).hse = s.hse := rfl
@[simp] theorem State.willIssue_mpu (s : State) (c : Command) : (s.willIssue c).mpu = s.mpu := rfl
@[simp] theorem State.willIssue_fd (s : State) (c : Command) : (s.willIssue c).fd = s.fd := rfl
@[simp] theorem State.willIssue_mpNlSkip (s : State) (c : Command) : (s.willIssue c).mpNlSkip = s.mpNlSkip := rfl
@[simp] theorem State.willIssue_host_pending (s : State) (c : Command) :
    (s.willIssue c).host.pending = c :: s.host.pending := rfl
@[simp] theorem State.willIssue_host_responses (s : State) (c : Command) :
    (s.willIssue c).host.responses = s.host.responses := rfl
@[simp] theorem State.willIssue_host_events (s : State) (c : Command) :
    (s.willIssue c).host.events = s.host.events := rfl
@[simp] theorem State.willIssue_host_inflateCalls (s : State) (c : Command) :
    (s.willIssue c).host.inflateCalls = s.host.inflateCalls := rfl
@[simp] theorem State.willIssue_host_inflateAnswers (s : State) (c : Command) :
    (s.willIssue c).host.inflateAnswers = s.host.inflateAnswers := rfl
@[simp] theorem State.willIssue_host_imageAnswers (s : State) (c : Command) :
    (s.willIssue c).host.imageAnswers = s.host.imageAnswers := rfl
@[simp] theorem State.willIssue_host_draws (s : State) (c : Command) :
    (s.willIssue c).host.draws = s.host.draws := rfl
@[simp] theorem State.inflateCalled_crcAcc (s : State) (p : List Byte) : (s.inflateCalled p).crcAcc = s.crcAcc := rfl
@[simp] theorem State.inflateCalled_hsd (s : State) (p : List Byte) : (s.inflateCalled p).hsd = s.hsd := rfl
@[simp] theorem State.inflateCalled_hse (s : State) (p : List Byte) : (s.inflateCalled p).hse = s.hse := rfl
@[simp] theorem State.inflateCalled_mpu (s : State) (p : List Byte) : (s.inflateCalled p).mpu = s.mpu := rfl
@[simp] theorem State.inflateCalled_fd (s : State) (p : List Byte) : (s.inflateCalled p).fd = s.fd := rfl
@[simp] theorem State.inflateCalled_mpNlSkip (s : State) (p : List Byte) :
    (s.inflateCalled p).mpNlSkip = s.mpNlSkip := rfl
@[simp] theorem State.inflateCalled_host_pending (s : State) (p : List Byte) :
    (s.inflateCalled p).host.pending = s.host.pending := rfl
@[simp] theorem State.inflateCalled_host_responses (s : State) (p : List Byte) :
    (s.inflateCalled p).host.responses = s.host.responses := rfl
@[simp] theorem State.inflateCalled_host_events (s : State) (p : List Byte) :
    (s.inflateCalled p).host.events = s.host.events := rfl
@[simp] theorem State.inflateCalled_host_inflateCalls (s : State) (p : List Byte) :
    (s.inflateCalled p).host.inflateCalls = s.host.inflateCalls ++ [p] := rfl
@[simp] theorem State.inflateCalled_host_inflateAnswers (s : State) (p : List Byte) :
    (s.inflateCalled p).host.inflateAnswers = s.host.inflateAnswers.tail := rfl
@[simp] theorem State.inflateCalled_host_imageAnswers (s : State) (p : List Byte) :
    (s.inflateCalled p).host.imageAnswers = s.host.imageAnswers := rfl
@[simp] theorem State.inflateCalled_host_draws (s : State) (p : List Byte) :
    (s.inflateCalled p).host.draws = if s.host.inflateAnswers = [] then s.host.draws + 1 else s.host.draws := rfl
@[simp] theorem State.imageCalled_crcAcc (s : State) (f w h : BitVec 16) (p : List Byte) :
    (s.imageCalled f w h p).crcAcc = s.crcAcc := rfl
@[simp] theorem State.imageCalled_hsd (s : State) (f w h : BitVec 16) (p : List Byte) :
    (s.imageCalled f w h p).hsd = s.hsd := rfl
@[simp] theorem State.imageCalled_hse (s : State) (f w h : BitVec 16) (p : List Byte) :
    (s.imageCalled f w h p).hse = s.hse := rfl
@[simp] theorem State.imageCalled_mpu (s : State) (f w h : BitVec 16) (p : List Byte) :
    (s.imageCalled f w h p).mpu = s.mpu := rfl
@[simp] theorem State.imageCalled_fd (s : State) (f w h : BitVec 16) (p : List Byte) :
    (s.imageCalled f w h p).fd = s.fd := rfl
@[simp] theorem State.imageCalled_mpNlSkip (s : State) (f w h : BitVec 16) (p : List Byte) :
    (s.imageCalled f w h p).mpNlSkip = s.mpNlSkip := rfl
@[simp] theorem State.imageCalled_host_pending (s : State) (f w h : BitVec 16) (p : List Byte) :
    (s.imageCalled f w h p).host.pending = s.host.pending := rfl
@[simp] theorem State.imageCalled_host_responses (s : State) (f w h : BitVec 16) (p : List Byte) :
    (s.imageCalled f w h p).host.responses = s.host.responses := rfl
@[simp] theorem State.imageCalled_host_events (s : State) (f w h : BitVec 16) (p : List Byte) :
    (s.imageCalled f w h p).host.events = s.host.events ++ [.image f w h p] := rfl
@[simp] theorem State.imageCalled_host_inflateCalls (s : State) (f w h : BitVec 16) (p : List Byte) :
    (s.imageCalled f w h p).host.inflateCalls = s.host.inflateCalls := rfl
@[simp] theorem State.imageCalled_host_inflateAnswers (s : State) (f w h : BitVec 16) (p : List Byte) :
    (s.imageCalled f w h p).host.inflateAnswers = s.host.inflateAnswers := rfl
@[simp] theorem State.imageCalled_host_imageAnswers (s : State) (f w h : BitVec 16) (p : List Byte) :
    (s.imageCalled f w h p).host.imageAnswers = s.host.imageAnswers.tail := rfl
@[simp] theorem State.imageCalled_host_draws (s : State) (f w h : BitVec 16) (p : List Byte) :
    (s.imageCalled f w h p).host.draws = if s.host.imageAnswers = [] then s.host.draws + 1 else s.host.draws := rfl

/-! ## HSD -/

@[simp] theorem Hsd.put_cfgd (u : Hsd) (c : Byte) : (u.put c).cfgd = u.cfgd := rfl
@[simp] theorem Hsd.put_w (u : Hsd) (c : Byte) : (u.put c).w = u.w := rfl
@[simp] theorem Hsd.put_l (u : Hsd) (c : Byte) : (u.put c).l = u.l := rfl
@[simp] theorem Hsd.put_inCap (u : Hsd) (c : Byte) : (u.put c).inCap = u.inCap := rfl
@[simp] theorem Hsd.put_outCap (u : Hsd) (c : Byte) : (u.put c).outCap = u.outCap := rfl
@[simp] theorem Hsd.put_dstate (u : Hsd) (c : Byte) : (u.put c).dstate = u.dstate := rfl
@[simp] theorem Hsd.put_finishing (u : Hsd) (c : Byte) : (u.put c).finishing = u.finishing := rfl
@[simp] theorem Hsd.put_misuse (u : Hsd) (c : Byte) : (u.put c).misuse = u.misuse := rfl
@[simp] theorem Hsd.put_inq (u : Hsd) (c : Byte) : (u.put c).inq = u.inq := rfl
@[simp] theorem Hsd.put_cur (u : Hsd) (c : Byte) : (u.put c).cur = u.cur := rfl
@[simp] theorem Hsd.put_left (u : Hsd) (c : Byte) : (u.put c).left = u.left := rfl
@[simp] theorem Hsd.put_head (u : Hsd) (c : Byte) : (u.put c).head = u.head + 1#16 := rfl
@[simp] theorem Hsd.put_index (u : Hsd) (c : Byte) : (u.put c).index = u.index := rfl
@[simp] theorem Hsd.put_count (u : Hsd) (c : Byte) : (u.put c).count = u.count := rfl
@[simp] theorem Hsd.put_dict (u : Hsd) (c : Byte) : (u.put c).dict = memWrite u.dict (u.head.toNat % u.size) c := rfl
@[simp] theorem Hsd.copyStep_cfgd (u : Hsd) : (u.copyStep).cfgd = u.cfgd := rfl
@[simp] theorem Hsd.copyStep_w (u : Hsd) : (u.copyStep).w = u.w := rfl
@[simp] theorem Hsd.copyStep_l (u : Hsd) : (u.copyStep).l = u.l := rfl
@[simp] theorem Hsd.copyStep_inCap (u : Hsd) : (u.copyStep).inCap = u.inCap := rfl
@[simp] theorem Hsd.copyStep_outCap (u : Hsd) : (u.copyStep).outCap = u.outCap := rfl
@[simp] theorem Hsd.copyStep_dstate (u : Hsd) :
    (u.copyStep).dstate = if u.count - 1#16 = 0#16 then .tag else .copy := rfl
@[simp] theorem Hsd.copyStep_finishing (u : Hsd) : (u.copyStep).finishing = u.finishing := rfl
@[simp] theorem Hsd.copyStep_misuse (u : Hsd) : (u.copyStep).misuse = u.misuse := rfl
@[simp] theorem Hsd.copyStep_inq (u : Hsd) : (u.copyStep).inq = u.inq := rfl
@[simp] theorem Hsd.copyStep_cur (u : Hsd) : (u.copyStep).cur = u.cur := rfl
@[simp] theorem Hsd.copyStep_left (u : Hsd) : (u.copyStep).left = u.left := rfl
@[simp] theorem Hsd.copyStep_head (u : Hsd) : (u.copyStep).head = u.head + 1#16 := rfl
@[simp] theorem Hsd.copyStep_index (u : Hsd) : (u.copyStep).index = u.index := rfl
@[simp] theorem Hsd.copyStep_count (u : Hsd) : (u.copyStep).count = u.count - 1#16 := rfl
@[simp] theorem Hsd.copyStep_dict (u : Hsd) :
    (u.copyStep).dict = memWrite u.dict (u.head.toNat % u.size) u.copyByte := rfl
@[simp] theorem Hsd.streamReset_cfgd (u : Hsd) : (u.streamReset).cfgd = u.cfgd := rfl
@[simp] theorem Hsd.streamReset_w (u : Hsd) : (u.streamReset).w = u.w := rfl
@[simp] theorem Hsd.streamReset_l (u : Hsd) : (u.streamReset).l = u.l := rfl
@[simp] theorem Hsd.streamReset_inCap (u : Hsd) : (u.streamReset).inCap = u.inCap := rfl
@[simp] theorem Hsd.streamReset_outCap (u : Hsd) : (u.streamReset).outCap = u.outCap := rfl
@[simp] theorem Hsd.streamReset_dstate (u : Hsd) : (u.streamReset).dstate = .tag := rfl
@[simp] theorem Hsd.streamReset_finishing (u : Hsd) : (u.streamReset).finishing = false := rfl
@[simp] theorem Hsd.streamReset_misuse (u : Hsd) : (u.streamReset).misuse = false := rfl
@[simp] theorem Hsd.streamReset_inq (u : Hsd) : (u.streamReset).inq = [] := rfl
@[simp] theorem Hsd.streamReset_cur (u : Hsd) : (u.streamReset).cur = 0 := rfl
@[simp] theorem Hsd.streamReset_left (u : Hsd) : (u.streamReset).left = 0 := rfl
@[simp] theorem Hsd.streamReset_head (u : Hsd) : (u.streamReset).head = 0 := rfl
@[simp] theorem Hsd.streamReset_index (u : Hsd) : (u.streamReset).index = 0 := rfl
@[simp] theorem Hsd.streamReset_count (u : Hsd) : (u.streamReset).count = 0 := rfl
@[simp] theorem Hsd.streamReset_dict (u : Hsd) : (u.streamReset).dict = [] := rfl

/-! ## HSE -/

@[simp] theorem Hse.putBits_cfgd (u : Hse) (v k : Nat) : (u.putBits v k).cfgd = u.cfgd := rfl
@[simp] theorem Hse.putBits_w (u : Hse) (v k : Nat) : (u.putBits v k).w = u.w := rfl
@[simp] theorem Hse.putBits_l (u : Hse) (v k : Nat) : (u.putBits v k).l = u.l := rfl
@[simp] theorem Hse.putBits_inCap (u : Hse) (v k : Nat) : (u.putBits v k).inCap = u.inCap := rfl
@[simp] theorem Hse.putBits_outCap (u : Hse) (v k : Nat) : (u.putBits v k).outCap = u.outCap := rfl
@[simp] theorem Hse.putBits_finishing (u : Hse) (v k : Nat) : (u.putBits v k).finishing = u.finishing := rfl
@[simp] theorem Hse.putBits_misuse (u : Hse) (v k : Nat) : (u.putBits v k).misuse = u.misuse := rfl
@[simp] theorem Hse.putBits_q (u : Hse) (v k : Nat) : (u.putBits v k).q = u.q := rfl
@[simp] theorem Hse.putBits_nbits (u : Hse) (v k : Nat) : (u.putBits v k).nbits = u.nbits + BitVec.ofNat 6 k := rfl
@[simp] theorem Hse.putBits_obits (u : Hse) (v k : Nat) :
    (u.putBits v k).obits = (u.obits <<< k) ||| BitVec.ofNat 37 v := rfl
@[simp] theorem Hse.putBits_hist (u : Hse) (v k : Nat) : (u.putBits v k).hist = u.hist := rfl
@[simp] theorem Hse.advance_cfgd (u : Hse) (n : Nat) : (u.advance n).cfgd = u.cfgd := rfl
@[simp] theorem Hse.advance_w (u : Hse) (n : Nat) : (u.advance n).w = u.w := rfl
@[simp] theorem Hse.advance_l (u : Hse) (n : Nat) : (u.advance n).l = u.l := rfl
@[simp] theorem Hse.advance_inCap (u : Hse) (n : Nat) : (u.advance n).inCap = u.inCap := rfl
@[simp] theorem Hse.advance_outCap (u : Hse) (n : Nat) : (u.advance n).outCap = u.outCap := rfl
@[simp] theorem Hse.advance_finishing (u : Hse) (n : Nat) : (u.advance n).finishing = u.finishing := rfl
@[simp] theorem Hse.advance_misuse (u : Hse) (n : Nat) : (u.advance n).misuse = u.misuse := rfl
@[simp] theorem Hse.advance_q (u : Hse) (n : Nat) : (u.advance n).q = u.q.drop n := rfl
@[simp] theorem Hse.advance_nbits (u : Hse) (n : Nat) : (u.advance n).nbits = u.nbits := rfl
@[simp] theorem Hse.advance_obits (u : Hse) (n : Nat) : (u.advance n).obits = u.obits := rfl
@[simp] theorem Hse.advance_hist (u : Hse) (n : Nat) :
    (u.advance n).hist = memShiftAll u.size u.hist (u.q.take n) := rfl
@[simp] theorem Hse.encoderReset_cfgd (u : Hse) : (u.encoderReset).cfgd = u.cfgd := rfl
@[simp] theorem Hse.encoderReset_w (u : Hse) : (u.encoderReset).w = u.w := rfl
@[simp] theorem Hse.encoderReset_l (u : Hse) : (u.encoderReset).l = u.l := rfl
@[simp] theorem Hse.encoderReset_inCap (u : Hse) : (u.encoderReset).inCap = u.inCap := rfl
@[simp] theorem Hse.encoderReset_outCap (u : Hse) : (u.encoderReset).outCap = u.outCap := rfl
@[simp] theorem Hse.encoderReset_finishing (u : Hse) : (u.encoderReset).finishing = false := rfl
@[simp] theorem Hse.encoderReset_misuse (u : Hse) : (u.encoderReset).misuse = false := rfl
@[simp] theorem Hse.encoderReset_q (u : Hse) : (u.encoderReset).q = [] := rfl
@[simp] theorem Hse.encoderReset_nbits (u : Hse) : (u.encoderReset).nbits = 0 := rfl
@[simp] theorem Hse.encoderReset_obits (u : Hse) : (u.encoderReset).obits = 0 := rfl
@[simp] theorem Hse.encoderReset_hist (u : Hse) : (u.encoderReset).hist = [] := rfl
@[simp] theorem Hse.afterByte_cfgd (u : Hse) : (u.afterByte).cfgd = u.cfgd := rfl
@[simp] theorem Hse.afterByte_w (u : Hse) : (u.afterByte).w = u.w := rfl
@[simp] theorem Hse.afterByte_l (u : Hse) : (u.afterByte).l = u.l := rfl
@[simp] theorem Hse.afterByte_inCap (u : Hse) : (u.afterByte).inCap = u.inCap := rfl
@[simp] theorem Hse.afterByte_outCap (u : Hse) : (u.afterByte).outCap = u.outCap := rfl
@[simp] theorem Hse.afterByte_finishing (u : Hse) : (u.afterByte).finishing = u.finishing := rfl
@[simp] theorem Hse.afterByte_misuse (u : Hse) : (u.afterByte).misuse = u.misuse := rfl
@[simp] theorem Hse.afterByte_q (u : Hse) : (u.afterByte).q = u.q := rfl
@[simp] theorem Hse.afterByte_nbits (u : Hse) : (u.afterByte).nbits = u.nbits - 8#6 := rfl
@[simp] theorem Hse.afterByte_obits (u : Hse) :
    (u.afterByte).obits = BitVec.ofNat 37 (u.obits.toNat % 2 ^ (u.nbits.toNat - 8)) := rfl
@[simp] theorem Hse.afterByte_hist (u : Hse) : (u.afterByte).hist = u.hist := rfl
@[simp] theorem Hse.afterLast_cfgd (u : Hse) : (u.afterLast).cfgd = u.cfgd := rfl
@[simp] theorem Hse.afterLast_w (u : Hse) : (u.afterLast).w = u.w := rfl
@[simp] theorem Hse.afterLast_l (u : Hse) : (u.afterLast).l = u.l := rfl
@[simp] theorem Hse.afterLast_inCap (u : Hse) : (u.afterLast).inCap = u.inCap := rfl
@[simp] theorem Hse.afterLast_outCap (u : Hse) : (u.afterLast).outCap = u.outCap := rfl
@[simp] theorem Hse.afterLast_finishing (u : Hse) : (u.afterLast).finishing = u.finishing := rfl
@[simp] theorem Hse.afterLast_misuse (u : Hse) : (u.afterLast).misuse = u.misuse := rfl
@[simp] theorem Hse.afterLast_q (u : Hse) : (u.afterLast).q = u.q := rfl
@[simp] theorem Hse.afterLast_nbits (u : Hse) : (u.afterLast).nbits = 0#6 := rfl
@[simp] theorem Hse.afterLast_obits (u : Hse) : (u.afterLast).obits = 0#37 := rfl
@[simp] theorem Hse.afterLast_hist (u : Hse) : (u.afterLast).hist = u.hist := rfl

/-! ## MPU -/

@[simp] theorem Mpu.out_unit_packing (m : Mpu) (b : Byte) : ((m.out b).unit).packing = m.packing := rfl
@[simp] theorem Mpu.out_unit_nospace (m : Mpu) (b : Byte) : ((m.out b).unit).nospace = m.nospace := rfl
@[simp] theorem Mpu.out_unit_cmdCount (m : Mpu) (b : Byte) : ((m.out b).unit).cmdCount = m.cmdCount := rfl
@[simp] theorem Mpu.out_unit_cmdActive (m : Mpu) (b : Byte) : ((m.out b).unit).cmdActive = m.cmdActive := rfl
@[simp] theorem Mpu.out_unit_fcq (m : Mpu) (b : Byte) : ((m.out b).unit).fcq = m.fcq := rfl
@[simp] theorem Mpu.out_unit_addSpace (m : Mpu) (b : Byte) : ((m.out b).unit).addSpace = m.addSpace := rfl
@[simp] theorem Mpu.out_unit_nonempty (m : Mpu) (b : Byte) : ((m.out b).unit).nonempty = true := rfl
@[simp] theorem Mpu.out_unit_charBuf (m : Mpu) (b : Byte) : ((m.out b).unit).charBuf = m.charBuf := rfl
@[simp] theorem Mpu.out_unit_last (m : Mpu) (b : Byte) : ((m.out b).unit).last = b := rfl
@[simp] theorem Mpu.out_unit_outLen (m : Mpu) (b : Byte) : ((m.out b).unit).outLen = m.outLen + 1#32 := rfl
@[simp] theorem Mpu.out_dout (m : Mpu) (b : Byte) : (m.out b).dout = [b] := rfl
@[simp] theorem Mpu.silent_unit (m : Mpu) : m.silent.unit = m := rfl
@[simp] theorem Mpu.silent_dout (m : Mpu) : m.silent.dout = [] := rfl
@[simp] theorem MpOut.andThen_unit (a : MpOut) (f : Mpu → MpOut) : (a.andThen f).unit = (f a.unit).unit := rfl
@[simp] theorem MpOut.andThen_dout (a : MpOut) (f : Mpu → MpOut) :
    (a.andThen f).dout = a.dout ++ (f a.unit).dout := rfl

/-! ## FD -/

@[simp] theorem Fd.dropBlock_phase (f : Fd) : (f.dropBlock).phase = f.phase := rfl
@[simp] theorem Fd.dropBlock_cursor (f : Fd) : (f.dropBlock).cursor = f.cursor := rfl
@[simp] theorem Fd.dropBlock_magic (f : Fd) : (f.dropBlock).magic = f.magic := rfl
@[simp] theorem Fd.dropBlock_version (f : Fd) : (f.dropBlock).version = f.version := rfl
@[simp] theorem Fd.dropBlock_ckKind (f : Fd) : (f.dropBlock).ckKind = f.ckKind := rfl
@[simp] theorem Fd.dropBlock_error (f : Fd) : (f.dropBlock).error = f.error := rfl
@[simp] theorem Fd.dropBlock_eof (f : Fd) : (f.dropBlock).eof = f.eof := rfl
@[simp] theorem Fd.dropBlock_abortReq (f : Fd) : (f.dropBlock).abortReq = f.abortReq := rfl
@[simp] theorem Fd.dropBlock_magicOk (f : Fd) : (f.dropBlock).magicOk = f.magicOk := rfl
@[simp] theorem Fd.dropBlock_misuse (f : Fd) : (f.dropBlock).misuse = f.misuse := rfl
@[simp] theorem Fd.dropBlock_hdrDone (f : Fd) : (f.dropBlock).hdrDone = f.hdrDone := rfl
@[simp] theorem Fd.dropBlock_src (f : Fd) : (f.dropBlock).src = f.src := rfl
@[simp] theorem Fd.dropBlock_btype (f : Fd) : (f.dropBlock).btype = f.btype := rfl
@[simp] theorem Fd.dropBlock_comp (f : Fd) : (f.dropBlock).comp = f.comp := rfl
@[simp] theorem Fd.dropBlock_busize (f : Fd) : (f.dropBlock).busize = f.busize := rfl
@[simp] theorem Fd.dropBlock_bcsize (f : Fd) : (f.dropBlock).bcsize = f.bcsize := rfl
@[simp] theorem Fd.dropBlock_bparam (f : Fd) : (f.dropBlock).bparam = f.bparam := rfl
@[simp] theorem Fd.dropBlock_bcrc (f : Fd) : (f.dropBlock).bcrc = f.bcrc := rfl
@[simp] theorem Fd.dropBlock_pay (f : Fd) : (f.dropBlock).pay = [] := rfl
@[simp] theorem Fd.dropBlock_dec (f : Fd) : (f.dropBlock).dec = [] := rfl
@[simp] theorem Fd.dropBlock_route (f : Fd) : (f.dropBlock).route = [] := rfl
@[simp] theorem Fd.dropBlock_routeKind (f : Fd) : (f.dropBlock).routeKind = .ini := rfl
@[simp] theorem Fd.dropBlock_results (f : Fd) : (f.dropBlock).results = f.results := rfl
@[simp] theorem Fd.raiseFatal_phase (code : FatalCode) (f : Fd) : (f.raiseFatal code).phase = .error := rfl
@[simp] theorem Fd.raiseFatal_cursor (code : FatalCode) (f : Fd) : (f.raiseFatal code).cursor = f.cursor := rfl
@[simp] theorem Fd.raiseFatal_magic (code : FatalCode) (f : Fd) : (f.raiseFatal code).magic = f.magic := rfl
@[simp] theorem Fd.raiseFatal_version (code : FatalCode) (f : Fd) : (f.raiseFatal code).version = f.version := rfl
@[simp] theorem Fd.raiseFatal_ckKind (code : FatalCode) (f : Fd) : (f.raiseFatal code).ckKind = f.ckKind := rfl
@[simp] theorem Fd.raiseFatal_error (code : FatalCode) (f : Fd) : (f.raiseFatal code).error = code := rfl
@[simp] theorem Fd.raiseFatal_eof (code : FatalCode) (f : Fd) : (f.raiseFatal code).eof = f.eof := rfl
@[simp] theorem Fd.raiseFatal_abortReq (code : FatalCode) (f : Fd) : (f.raiseFatal code).abortReq = f.abortReq := rfl
@[simp] theorem Fd.raiseFatal_magicOk (code : FatalCode) (f : Fd) : (f.raiseFatal code).magicOk = f.magicOk := rfl
@[simp] theorem Fd.raiseFatal_misuse (code : FatalCode) (f : Fd) : (f.raiseFatal code).misuse = f.misuse := rfl
@[simp] theorem Fd.raiseFatal_hdrDone (code : FatalCode) (f : Fd) : (f.raiseFatal code).hdrDone = f.hdrDone := rfl
@[simp] theorem Fd.raiseFatal_src (code : FatalCode) (f : Fd) : (f.raiseFatal code).src = f.src := rfl
@[simp] theorem Fd.raiseFatal_btype (code : FatalCode) (f : Fd) : (f.raiseFatal code).btype = f.btype := rfl
@[simp] theorem Fd.raiseFatal_comp (code : FatalCode) (f : Fd) : (f.raiseFatal code).comp = f.comp := rfl
@[simp] theorem Fd.raiseFatal_busize (code : FatalCode) (f : Fd) : (f.raiseFatal code).busize = f.busize := rfl
@[simp] theorem Fd.raiseFatal_bcsize (code : FatalCode) (f : Fd) : (f.raiseFatal code).bcsize = f.bcsize := rfl
@[simp] theorem Fd.raiseFatal_bparam (code : FatalCode) (f : Fd) : (f.raiseFatal code).bparam = f.bparam := rfl
@[simp] theorem Fd.raiseFatal_bcrc (code : FatalCode) (f : Fd) : (f.raiseFatal code).bcrc = f.bcrc := rfl
@[simp] theorem Fd.raiseFatal_pay (code : FatalCode) (f : Fd) : (f.raiseFatal code).pay = [] := rfl
@[simp] theorem Fd.raiseFatal_dec (code : FatalCode) (f : Fd) : (f.raiseFatal code).dec = [] := rfl
@[simp] theorem Fd.raiseFatal_route (code : FatalCode) (f : Fd) : (f.raiseFatal code).route = [] := rfl
@[simp] theorem Fd.raiseFatal_routeKind (code : FatalCode) (f : Fd) : (f.raiseFatal code).routeKind = .ini := rfl
@[simp] theorem Fd.raiseFatal_results (code : FatalCode) (f : Fd) : (f.raiseFatal code).results = [] := rfl
@[simp] theorem Fd.enterCancelled_phase (f : Fd) : (f.enterCancelled).phase = .cancelled := rfl
@[simp] theorem Fd.enterCancelled_cursor (f : Fd) : (f.enterCancelled).cursor = f.cursor := rfl
@[simp] theorem Fd.enterCancelled_magic (f : Fd) : (f.enterCancelled).magic = f.magic := rfl
@[simp] theorem Fd.enterCancelled_version (f : Fd) : (f.enterCancelled).version = f.version := rfl
@[simp] theorem Fd.enterCancelled_ckKind (f : Fd) : (f.enterCancelled).ckKind = f.ckKind := rfl
@[simp] theorem Fd.enterCancelled_error (f : Fd) : (f.enterCancelled).error = f.error := rfl
@[simp] theorem Fd.enterCancelled_eof (f : Fd) : (f.enterCancelled).eof = f.eof := rfl
@[simp] theorem Fd.enterCancelled_abortReq (f : Fd) : (f.enterCancelled).abortReq = f.abortReq := rfl
@[simp] theorem Fd.enterCancelled_magicOk (f : Fd) : (f.enterCancelled).magicOk = f.magicOk := rfl
@[simp] theorem Fd.enterCancelled_misuse (f : Fd) : (f.enterCancelled).misuse = f.misuse := rfl
@[simp] theorem Fd.enterCancelled_hdrDone (f : Fd) : (f.enterCancelled).hdrDone = f.hdrDone := rfl
@[simp] theorem Fd.enterCancelled_src (f : Fd) : (f.enterCancelled).src = f.src := rfl
@[simp] theorem Fd.enterCancelled_btype (f : Fd) : (f.enterCancelled).btype = f.btype := rfl
@[simp] theorem Fd.enterCancelled_comp (f : Fd) : (f.enterCancelled).comp = f.comp := rfl
@[simp] theorem Fd.enterCancelled_busize (f : Fd) : (f.enterCancelled).busize = f.busize := rfl
@[simp] theorem Fd.enterCancelled_bcsize (f : Fd) : (f.enterCancelled).bcsize = f.bcsize := rfl
@[simp] theorem Fd.enterCancelled_bparam (f : Fd) : (f.enterCancelled).bparam = f.bparam := rfl
@[simp] theorem Fd.enterCancelled_bcrc (f : Fd) : (f.enterCancelled).bcrc = f.bcrc := rfl
@[simp] theorem Fd.enterCancelled_pay (f : Fd) : (f.enterCancelled).pay = [] := rfl
@[simp] theorem Fd.enterCancelled_dec (f : Fd) : (f.enterCancelled).dec = [] := rfl
@[simp] theorem Fd.enterCancelled_route (f : Fd) : (f.enterCancelled).route = [] := rfl
@[simp] theorem Fd.enterCancelled_routeKind (f : Fd) : (f.enterCancelled).routeKind = .ini := rfl
@[simp] theorem Fd.enterCancelled_results (f : Fd) : (f.enterCancelled).results = [] := rfl
@[simp] theorem Fd.consumed_phase (n : Nat) (f : Fd) : (f.consumed n).phase = f.phase := rfl
@[simp] theorem Fd.consumed_cursor (n : Nat) (f : Fd) : (f.consumed n).cursor = f.cursor + BitVec.ofNat 64 n := rfl
@[simp] theorem Fd.consumed_magic (n : Nat) (f : Fd) : (f.consumed n).magic = f.magic := rfl
@[simp] theorem Fd.consumed_version (n : Nat) (f : Fd) : (f.consumed n).version = f.version := rfl
@[simp] theorem Fd.consumed_ckKind (n : Nat) (f : Fd) : (f.consumed n).ckKind = f.ckKind := rfl
@[simp] theorem Fd.consumed_error (n : Nat) (f : Fd) : (f.consumed n).error = f.error := rfl
@[simp] theorem Fd.consumed_eof (n : Nat) (f : Fd) : (f.consumed n).eof = f.eof := rfl
@[simp] theorem Fd.consumed_abortReq (n : Nat) (f : Fd) : (f.consumed n).abortReq = f.abortReq := rfl
@[simp] theorem Fd.consumed_magicOk (n : Nat) (f : Fd) : (f.consumed n).magicOk = f.magicOk := rfl
@[simp] theorem Fd.consumed_misuse (n : Nat) (f : Fd) : (f.consumed n).misuse = f.misuse := rfl
@[simp] theorem Fd.consumed_hdrDone (n : Nat) (f : Fd) : (f.consumed n).hdrDone = f.hdrDone := rfl
@[simp] theorem Fd.consumed_src (n : Nat) (f : Fd) : (f.consumed n).src = f.src.drop n := rfl
@[simp] theorem Fd.consumed_btype (n : Nat) (f : Fd) : (f.consumed n).btype = f.btype := rfl
@[simp] theorem Fd.consumed_comp (n : Nat) (f : Fd) : (f.consumed n).comp = f.comp := rfl
@[simp] theorem Fd.consumed_busize (n : Nat) (f : Fd) : (f.consumed n).busize = f.busize := rfl
@[simp] theorem Fd.consumed_bcsize (n : Nat) (f : Fd) : (f.consumed n).bcsize = f.bcsize := rfl
@[simp] theorem Fd.consumed_bparam (n : Nat) (f : Fd) : (f.consumed n).bparam = f.bparam := rfl
@[simp] theorem Fd.consumed_bcrc (n : Nat) (f : Fd) : (f.consumed n).bcrc = f.bcrc := rfl
@[simp] theorem Fd.consumed_pay (n : Nat) (f : Fd) : (f.consumed n).pay = f.pay := rfl
@[simp] theorem Fd.consumed_dec (n : Nat) (f : Fd) : (f.consumed n).dec = f.dec := rfl
@[simp] theorem Fd.consumed_route (n : Nat) (f : Fd) : (f.consumed n).route = f.route := rfl
@[simp] theorem Fd.consumed_routeKind (n : Nat) (f : Fd) : (f.consumed n).routeKind = f.routeKind := rfl
@[simp] theorem Fd.consumed_results (n : Nat) (f : Fd) : (f.consumed n).results = f.results := rfl
@[simp] theorem Fd.gotFileHdr_phase (h : List Byte) (f : Fd) : (f.gotFileHdr h).phase = f.phase := rfl
@[simp] theorem Fd.gotFileHdr_cursor (h : List Byte) (f : Fd) : (f.gotFileHdr h).cursor = f.cursor := rfl
@[simp] theorem Fd.gotFileHdr_magic (h : List Byte) (f : Fd) : (f.gotFileHdr h).magic = le32 h 0 := rfl
@[simp] theorem Fd.gotFileHdr_version (h : List Byte) (f : Fd) : (f.gotFileHdr h).version = le32 h 4 := rfl
@[simp] theorem Fd.gotFileHdr_ckKind (h : List Byte) (f : Fd) : (f.gotFileHdr h).ckKind = le16 h 8 := rfl
@[simp] theorem Fd.gotFileHdr_error (h : List Byte) (f : Fd) : (f.gotFileHdr h).error = f.error := rfl
@[simp] theorem Fd.gotFileHdr_eof (h : List Byte) (f : Fd) : (f.gotFileHdr h).eof = f.eof := rfl
@[simp] theorem Fd.gotFileHdr_abortReq (h : List Byte) (f : Fd) : (f.gotFileHdr h).abortReq = f.abortReq := rfl
@[simp] theorem Fd.gotFileHdr_magicOk (h : List Byte) (f : Fd) :
    (f.gotFileHdr h).magicOk = (h.take 4 == magicBytes) := rfl
@[simp] theorem Fd.gotFileHdr_misuse (h : List Byte) (f : Fd) : (f.gotFileHdr h).misuse = f.misuse := rfl
@[simp] theorem Fd.gotFileHdr_hdrDone (h : List Byte) (f : Fd) : (f.gotFileHdr h).hdrDone = f.hdrDone := rfl
@[simp] theorem Fd.gotFileHdr_src (h : List Byte) (f : Fd) : (f.gotFileHdr h).src = f.src := rfl
@[simp] theorem Fd.gotFileHdr_btype (h : List Byte) (f : Fd) : (f.gotFileHdr h).btype = f.btype := rfl
@[simp] theorem Fd.gotFileHdr_comp (h : List Byte) (f : Fd) : (f.gotFileHdr h).comp = f.comp := rfl
@[simp] theorem Fd.gotFileHdr_busize (h : List Byte) (f : Fd) : (f.gotFileHdr h).busize = f.busize := rfl
@[simp] theorem Fd.gotFileHdr_bcsize (h : List Byte) (f : Fd) : (f.gotFileHdr h).bcsize = f.bcsize := rfl
@[simp] theorem Fd.gotFileHdr_bparam (h : List Byte) (f : Fd) : (f.gotFileHdr h).bparam = f.bparam := rfl
@[simp] theorem Fd.gotFileHdr_bcrc (h : List Byte) (f : Fd) : (f.gotFileHdr h).bcrc = f.bcrc := rfl
@[simp] theorem Fd.gotFileHdr_pay (h : List Byte) (f : Fd) : (f.gotFileHdr h).pay = f.pay := rfl
@[simp] theorem Fd.gotFileHdr_dec (h : List Byte) (f : Fd) : (f.gotFileHdr h).dec = f.dec := rfl
@[simp] theorem Fd.gotFileHdr_route (h : List Byte) (f : Fd) : (f.gotFileHdr h).route = f.route := rfl
@[simp] theorem Fd.gotFileHdr_routeKind (h : List Byte) (f : Fd) : (f.gotFileHdr h).routeKind = f.routeKind := rfl
@[simp] theorem Fd.gotFileHdr_results (h : List Byte) (f : Fd) : (f.gotFileHdr h).results = f.results := rfl
@[simp] theorem Fd.gotBlkHdr_phase (h : List Byte) (f : Fd) : (f.gotBlkHdr h).phase = f.phase := rfl
@[simp] theorem Fd.gotBlkHdr_cursor (h : List Byte) (f : Fd) : (f.gotBlkHdr h).cursor = f.cursor := rfl
@[simp] theorem Fd.gotBlkHdr_magic (h : List Byte) (f : Fd) : (f.gotBlkHdr h).magic = f.magic := rfl
@[simp] theorem Fd.gotBlkHdr_version (h : List Byte) (f : Fd) : (f.gotBlkHdr h).version = f.version := rfl
@[simp] theorem Fd.gotBlkHdr_ckKind (h : List Byte) (f : Fd) : (f.gotBlkHdr h).ckKind = f.ckKind := rfl
@[simp] theorem Fd.gotBlkHdr_error (h : List Byte) (f : Fd) : (f.gotBlkHdr h).error = f.error := rfl
@[simp] theorem Fd.gotBlkHdr_eof (h : List Byte) (f : Fd) : (f.gotBlkHdr h).eof = f.eof := rfl
@[simp] theorem Fd.gotBlkHdr_abortReq (h : List Byte) (f : Fd) : (f.gotBlkHdr h).abortReq = f.abortReq := rfl
@[simp] theorem Fd.gotBlkHdr_magicOk (h : List Byte) (f : Fd) : (f.gotBlkHdr h).magicOk = f.magicOk := rfl
@[simp] theorem Fd.gotBlkHdr_misuse (h : List Byte) (f : Fd) : (f.gotBlkHdr h).misuse = f.misuse := rfl
@[simp] theorem Fd.gotBlkHdr_hdrDone (h : List Byte) (f : Fd) : (f.gotBlkHdr h).hdrDone = f.hdrDone := rfl
@[simp] theorem Fd.gotBlkHdr_src (h : List Byte) (f : Fd) : (f.gotBlkHdr h).src = f.src := rfl
@[simp] theorem Fd.gotBlkHdr_btype (h : List Byte) (f : Fd) : (f.gotBlkHdr h).btype = le16 h 0 := rfl
@[simp] theorem Fd.gotBlkHdr_comp (h : List Byte) (f : Fd) : (f.gotBlkHdr h).comp = le16 h 2 := rfl
@[simp] theorem Fd.gotBlkHdr_busize (h : List Byte) (f : Fd) : (f.gotBlkHdr h).busize = le32 h 4 := rfl
@[simp] theorem Fd.gotBlkHdr_bcsize (h : List Byte) (f : Fd) : (f.gotBlkHdr h).bcsize = 0#32 := rfl
@[simp] theorem Fd.gotBlkHdr_bparam (h : List Byte) (f : Fd) : (f.gotBlkHdr h).bparam = 0#48 := rfl
@[simp] theorem Fd.gotBlkHdr_bcrc (h : List Byte) (f : Fd) : (f.gotBlkHdr h).bcrc = crcUpdate 0#32 h := rfl
@[simp] theorem Fd.gotBlkHdr_pay (h : List Byte) (f : Fd) : (f.gotBlkHdr h).pay = [] := rfl
@[simp] theorem Fd.gotBlkHdr_dec (h : List Byte) (f : Fd) : (f.gotBlkHdr h).dec = [] := rfl
@[simp] theorem Fd.gotBlkHdr_route (h : List Byte) (f : Fd) : (f.gotBlkHdr h).route = [] := rfl
@[simp] theorem Fd.gotBlkHdr_routeKind (h : List Byte) (f : Fd) : (f.gotBlkHdr h).routeKind = .ini := rfl
@[simp] theorem Fd.gotBlkHdr_results (h : List Byte) (f : Fd) : (f.gotBlkHdr h).results = f.results := rfl
@[simp] theorem Fd.appendRecord_phase (v : Bool) (a b : BitVec 32) (f : Fd) :
    (f.appendRecord v a b).phase = f.phase := rfl
@[simp] theorem Fd.appendRecord_cursor (v : Bool) (a b : BitVec 32) (f : Fd) :
    (f.appendRecord v a b).cursor = f.cursor := rfl
@[simp] theorem Fd.appendRecord_magic (v : Bool) (a b : BitVec 32) (f : Fd) :
    (f.appendRecord v a b).magic = f.magic := rfl
@[simp] theorem Fd.appendRecord_version (v : Bool) (a b : BitVec 32) (f : Fd) :
    (f.appendRecord v a b).version = f.version := rfl
@[simp] theorem Fd.appendRecord_ckKind (v : Bool) (a b : BitVec 32) (f : Fd) :
    (f.appendRecord v a b).ckKind = f.ckKind := rfl
@[simp] theorem Fd.appendRecord_error (v : Bool) (a b : BitVec 32) (f : Fd) :
    (f.appendRecord v a b).error = f.error := rfl
@[simp] theorem Fd.appendRecord_eof (v : Bool) (a b : BitVec 32) (f : Fd) : (f.appendRecord v a b).eof = f.eof := rfl
@[simp] theorem Fd.appendRecord_abortReq (v : Bool) (a b : BitVec 32) (f : Fd) :
    (f.appendRecord v a b).abortReq = f.abortReq := rfl
@[simp] theorem Fd.appendRecord_magicOk (v : Bool) (a b : BitVec 32) (f : Fd) :
    (f.appendRecord v a b).magicOk = f.magicOk := rfl
@[simp] theorem Fd.appendRecord_misuse (v : Bool) (a b : BitVec 32) (f : Fd) :
    (f.appendRecord v a b).misuse = f.misuse := rfl
@[simp] theorem Fd.appendRecord_hdrDone (v : Bool) (a b : BitVec 32) (f : Fd) :
    (f.appendRecord v a b).hdrDone = f.hdrDone := rfl
@[simp] theorem Fd.appendRecord_src (v : Bool) (a b : BitVec 32) (f : Fd) : (f.appendRecord v a b).src = f.src := rfl
@[simp] theorem Fd.appendRecord_btype (v : Bool) (a b : BitVec 32) (f : Fd) :
    (f.appendRecord v a b).btype = f.btype := rfl
@[simp] theorem Fd.appendRecord_comp (v : Bool) (a b : BitVec 32) (f : Fd) :
    (f.appendRecord v a b).comp = f.comp := rfl
@[simp] theorem Fd.appendRecord_busize (v : Bool) (a b : BitVec 32) (f : Fd) :
    (f.appendRecord v a b).busize = f.busize := rfl
@[simp] theorem Fd.appendRecord_bcsize (v : Bool) (a b : BitVec 32) (f : Fd) :
    (f.appendRecord v a b).bcsize = f.bcsize := rfl
@[simp] theorem Fd.appendRecord_bparam (v : Bool) (a b : BitVec 32) (f : Fd) :
    (f.appendRecord v a b).bparam = f.bparam := rfl
@[simp] theorem Fd.appendRecord_bcrc (v : Bool) (a b : BitVec 32) (f : Fd) :
    (f.appendRecord v a b).bcrc = f.bcrc := rfl
@[simp] theorem Fd.appendRecord_pay (v : Bool) (a b : BitVec 32) (f : Fd) : (f.appendRecord v a b).pay = [] := rfl
@[simp] theorem Fd.appendRecord_dec (v : Bool) (a b : BitVec 32) (f : Fd) : (f.appendRecord v a b).dec = [] := rfl
@[simp] theorem Fd.appendRecord_route (v : Bool) (a b : BitVec 32) (f : Fd) : (f.appendRecord v a b).route = [] := rfl
@[simp] theorem Fd.appendRecord_routeKind (v : Bool) (a b : BitVec 32) (f : Fd) :
    (f.appendRecord v a b).routeKind = .ini := rfl
@[simp] theorem Fd.appendRecord_results (v : Bool) (a b : BitVec 32) (f : Fd) :
    (f.appendRecord v a b).results = f.results ++ [f.record v a b] := rfl
@[simp] theorem Fd.withDec_phase (d : List Byte) (f : Fd) : (f.withDec d).phase = f.phase := rfl
@[simp] theorem Fd.withDec_cursor (d : List Byte) (f : Fd) : (f.withDec d).cursor = f.cursor := rfl
@[simp] theorem Fd.withDec_magic (d : List Byte) (f : Fd) : (f.withDec d).magic = f.magic := rfl
@[simp] theorem Fd.withDec_version (d : List Byte) (f : Fd) : (f.withDec d).version = f.version := rfl
@[simp] theorem Fd.withDec_ckKind (d : List Byte) (f : Fd) : (f.withDec d).ckKind = f.ckKind := rfl
@[simp] theorem Fd.withDec_error (d : List Byte) (f : Fd) : (f.withDec d).error = f.error := rfl
@[simp] theorem Fd.withDec_eof (d : List Byte) (f : Fd) : (f.withDec d).eof = f.eof := rfl
@[simp] theorem Fd.withDec_abortReq (d : List Byte) (f : Fd) : (f.withDec d).abortReq = f.abortReq := rfl
@[simp] theorem Fd.withDec_magicOk (d : List Byte) (f : Fd) : (f.withDec d).magicOk = f.magicOk := rfl
@[simp] theorem Fd.withDec_misuse (d : List Byte) (f : Fd) : (f.withDec d).misuse = f.misuse := rfl
@[simp] theorem Fd.withDec_hdrDone (d : List Byte) (f : Fd) : (f.withDec d).hdrDone = f.hdrDone := rfl
@[simp] theorem Fd.withDec_src (d : List Byte) (f : Fd) : (f.withDec d).src = f.src := rfl
@[simp] theorem Fd.withDec_btype (d : List Byte) (f : Fd) : (f.withDec d).btype = f.btype := rfl
@[simp] theorem Fd.withDec_comp (d : List Byte) (f : Fd) : (f.withDec d).comp = f.comp := rfl
@[simp] theorem Fd.withDec_busize (d : List Byte) (f : Fd) : (f.withDec d).busize = f.busize := rfl
@[simp] theorem Fd.withDec_bcsize (d : List Byte) (f : Fd) : (f.withDec d).bcsize = f.bcsize := rfl
@[simp] theorem Fd.withDec_bparam (d : List Byte) (f : Fd) : (f.withDec d).bparam = f.bparam := rfl
@[simp] theorem Fd.withDec_bcrc (d : List Byte) (f : Fd) : (f.withDec d).bcrc = f.bcrc := rfl
@[simp] theorem Fd.withDec_pay (d : List Byte) (f : Fd) : (f.withDec d).pay = f.pay := rfl
@[simp] theorem Fd.withDec_dec (d : List Byte) (f : Fd) : (f.withDec d).dec = d := rfl
@[simp] theorem Fd.withDec_route (d : List Byte) (f : Fd) : (f.withDec d).route = f.route := rfl
@[simp] theorem Fd.withDec_routeKind (d : List Byte) (f : Fd) : (f.withDec d).routeKind = f.routeKind := rfl
@[simp] theorem Fd.withDec_results (d : List Byte) (f : Fd) : (f.withDec d).results = f.results := rfl
@[simp] theorem Fd.withRoute_phase (k : Route) (r : List Byte) (f : Fd) : (f.withRoute k r).phase = f.phase := rfl
@[simp] theorem Fd.withRoute_cursor (k : Route) (r : List Byte) (f : Fd) : (f.withRoute k r).cursor = f.cursor := rfl
@[simp] theorem Fd.withRoute_magic (k : Route) (r : List Byte) (f : Fd) : (f.withRoute k r).magic = f.magic := rfl
@[simp] theorem Fd.withRoute_version (k : Route) (r : List Byte) (f : Fd) :
    (f.withRoute k r).version = f.version := rfl
@[simp] theorem Fd.withRoute_ckKind (k : Route) (r : List Byte) (f : Fd) : (f.withRoute k r).ckKind = f.ckKind := rfl
@[simp] theorem Fd.withRoute_error (k : Route) (r : List Byte) (f : Fd) : (f.withRoute k r).error = f.error := rfl
@[simp] theorem Fd.withRoute_eof (k : Route) (r : List Byte) (f : Fd) : (f.withRoute k r).eof = f.eof := rfl
@[simp] theorem Fd.withRoute_abortReq (k : Route) (r : List Byte) (f : Fd) :
    (f.withRoute k r).abortReq = f.abortReq := rfl
@[simp] theorem Fd.withRoute_magicOk (k : Route) (r : List Byte) (f : Fd) :
    (f.withRoute k r).magicOk = f.magicOk := rfl
@[simp] theorem Fd.withRoute_misuse (k : Route) (r : List Byte) (f : Fd) : (f.withRoute k r).misuse = f.misuse := rfl
@[simp] theorem Fd.withRoute_hdrDone (k : Route) (r : List Byte) (f : Fd) :
    (f.withRoute k r).hdrDone = f.hdrDone := rfl
@[simp] theorem Fd.withRoute_src (k : Route) (r : List Byte) (f : Fd) : (f.withRoute k r).src = f.src := rfl
@[simp] theorem Fd.withRoute_btype (k : Route) (r : List Byte) (f : Fd) : (f.withRoute k r).btype = f.btype := rfl
@[simp] theorem Fd.withRoute_comp (k : Route) (r : List Byte) (f : Fd) : (f.withRoute k r).comp = f.comp := rfl
@[simp] theorem Fd.withRoute_busize (k : Route) (r : List Byte) (f : Fd) : (f.withRoute k r).busize = f.busize := rfl
@[simp] theorem Fd.withRoute_bcsize (k : Route) (r : List Byte) (f : Fd) : (f.withRoute k r).bcsize = f.bcsize := rfl
@[simp] theorem Fd.withRoute_bparam (k : Route) (r : List Byte) (f : Fd) : (f.withRoute k r).bparam = f.bparam := rfl
@[simp] theorem Fd.withRoute_bcrc (k : Route) (r : List Byte) (f : Fd) : (f.withRoute k r).bcrc = f.bcrc := rfl
@[simp] theorem Fd.withRoute_pay (k : Route) (r : List Byte) (f : Fd) : (f.withRoute k r).pay = f.pay := rfl
@[simp] theorem Fd.withRoute_dec (k : Route) (r : List Byte) (f : Fd) : (f.withRoute k r).dec = f.dec := rfl
@[simp] theorem Fd.withRoute_route (k : Route) (r : List Byte) (f : Fd) : (f.withRoute k r).route = r := rfl
@[simp] theorem Fd.withRoute_routeKind (k : Route) (r : List Byte) (f : Fd) : (f.withRoute k r).routeKind = k := rfl
@[simp] theorem Fd.withRoute_results (k : Route) (r : List Byte) (f : Fd) :
    (f.withRoute k r).results = f.results := rfl

end Sys2Proof.Machine
end

