-- ==== Sys2Proof/Laws/Units.lean ====
section
/-! SUPPORT. What each shared operation of the units can do, said once: taking bits, the match search, the exact-N read
of the dispatcher, and the counts of responses. -/

namespace Sys2Proof.Machine

/-! ## Responses -/

theorem doutCount_of_lt {n : Nat} {d : List Byte} (h : d.length < 4294967296) :
    doutCount n d = BitVec.ofNat 32 d.length := if_pos h

theorem drawsAfter_of_lt {n : Nat} {d : List Byte} (h : d.length < 4294967296) : drawsAfter n d = n := if_pos h

/-! ## Taking bits (spec/42_heatshrink_decoder.md R175) -/

/-- Loading a byte keeps the bits available, and leaves a bit to read where one was available. -/
theorem Hsd.load_cases (u : Hsd) :
    u.load = u ∨ ∃ b rest, u.left = 0#4 ∧ u.inq = b :: rest ∧
      u.load = { u with cur := b, left := 8#4, inq := rest } := by
  unfold Hsd.load
  split_ifs with h
  · cases hq : u.inq with
    | nil => exact .inl rfl
    | cons b rest => exact .inr ⟨b, rest, h, rfl, rfl⟩
  · exact .inl rfl

@[simp] theorem Hsd.load_avail (u : Hsd) : u.load.avail = u.avail := by
  rcases u.load_cases with h | ⟨b, rest, h0, hq, h⟩
  · rw [h]
  · rw [h]; simp only [Hsd.avail, h0, hq, List.length_cons]; simp; omega

/-- A loaded unit with a bit available has a bit to read. -/
theorem Hsd.load_left_pos {u : Hsd} (h : 1 ≤ u.avail) : 1 ≤ u.load.left.toNat := by
  unfold Hsd.load
  split_ifs with h0
  · cases hq : u.inq with
    | nil => simp [Hsd.avail, h0, hq] at h
    | cons b rest => simp
  · have : u.left.toNat ≠ 0 := fun e => h0 (BitVec.eq_of_toNat_eq (by simpa using e))
    omega

/-- Taking a bit uses one available bit. -/
theorem Hsd.afterBit_avail {u : Hsd} (h : 1 ≤ u.avail) : u.afterBit.avail + 1 = u.avail := by
  have h1 := Hsd.load_left_pos h
  have h2 := u.load_avail
  have h3 := u.load.left.isLt
  simp only [Hsd.avail, Hsd.afterBit, BitVec.toNat_sub] at *
  simp only [BitVec.toNat_ofNat]
  omega

/-- LEFT stays 0 to 8 when a bit is taken. -/
theorem Hsd.afterBit_left_le {u : Hsd} (h : u.left.toNat ≤ 8) (ha : 1 ≤ u.avail) : u.afterBit.left.toNat ≤ 8 := by
  have h1 := Hsd.load_left_pos ha
  have h2 : u.load.left.toNat ≤ 8 := by
    rcases u.load_cases with e | ⟨b, rest, _, _, e⟩
    · rw [e]; exact h
    · rw [e]; simp
  simp only [Hsd.afterBit, BitVec.toNat_sub, BitVec.toNat_ofNat]
  have := u.load.left.isLt
  omega

/-- The fields that taking bits never touches. -/
structure Hsd.SameButBits (u v : Hsd) : Prop where
  cfgd : v.cfgd = u.cfgd
  w : v.w = u.w
  l : v.l = u.l
  inCap : v.inCap = u.inCap
  outCap : v.outCap = u.outCap
  dstate : v.dstate = u.dstate
  finishing : v.finishing = u.finishing
  misuse : v.misuse = u.misuse
  head : v.head = u.head
  index : v.index = u.index
  count : v.count = u.count
  dict : v.dict = u.dict

theorem Hsd.afterBit_same (u : Hsd) : u.SameButBits u.afterBit := by
  rcases u.load_cases with e | ⟨b, rest, _, _, e⟩ <;>
    constructor <;> simp [Hsd.afterBit, e]

theorem Hsd.takeFrom_same (k v : Nat) (u : Hsd) : u.SameButBits (Hsd.takeFrom v k u).2 := by
  induction k generalizing v u with
  | zero => constructor <;> rfl
  | succ k ih =>
    have a := u.afterBit_same
    have b := ih (2 * v + u.load.nextBit.toNat) u.afterBit
    constructor <;> simp only [Hsd.takeFrom]
    · rw [b.cfgd, a.cfgd]
    · rw [b.w, a.w]
    · rw [b.l, a.l]
    · rw [b.inCap, a.inCap]
    · rw [b.outCap, a.outCap]
    · rw [b.dstate, a.dstate]
    · rw [b.finishing, a.finishing]
    · rw [b.misuse, a.misuse]
    · rw [b.head, a.head]
    · rw [b.index, a.index]
    · rw [b.count, a.count]
    · rw [b.dict, a.dict]

/-- `take(k)` touches CUR, LEFT and INQ only (R175). -/
theorem Hsd.taken_same (k : Nat) (u : Hsd) : u.SameButBits (u.taken k) := Hsd.takeFrom_same k 0 u

/-- The unit `take` leaves does not depend on the bits already read. -/
theorem Hsd.takeFrom_unit (k v v' : Nat) (u : Hsd) : (Hsd.takeFrom v k u).2 = (Hsd.takeFrom v' k u).2 := by
  induction k generalizing v v' u with
  | zero => rfl
  | succ k ih => exact ih _ _ _

/-- `take(k + 1)` takes one bit and then k more. -/
theorem Hsd.taken_succ (k : Nat) (u : Hsd) : u.taken (k + 1) = u.afterBit.taken k := Hsd.takeFrom_unit k _ 0 _

theorem Hsd.takeFrom_avail {k : Nat} (v : Nat) {u : Hsd} (h : k ≤ u.avail) :
    (Hsd.takeFrom v k u).2.avail + k = u.avail := by
  induction k generalizing v u with
  | zero => rfl
  | succ k ih =>
    have h1 := Hsd.afterBit_avail (u := u) (by omega)
    have h2 := ih (2 * v + u.load.nextBit.toNat) (u := u.afterBit) (by omega)
    simp only [Hsd.takeFrom]
    omega

/-- `take(k)` uses k available bits (R175). -/
theorem Hsd.taken_avail {k : Nat} {u : Hsd} (h : k ≤ u.avail) : (u.taken k).avail + k = u.avail :=
  Hsd.takeFrom_avail 0 h

theorem Hsd.takeFrom_left_le {k : Nat} (v : Nat) {u : Hsd} (h : u.left.toNat ≤ 8) (ha : k ≤ u.avail) :
    (Hsd.takeFrom v k u).2.left.toNat ≤ 8 := by
  induction k generalizing v u with
  | zero => exact h
  | succ k ih =>
    have h1 := Hsd.afterBit_avail (u := u) (by omega)
    exact ih _ (Hsd.afterBit_left_le h (by omega)) (by omega)

theorem Hsd.takeFrom_inq (k v : Nat) (u : Hsd) : (Hsd.takeFrom v k u).2.inq.length ≤ u.inq.length := by
  induction k generalizing v u with
  | zero => exact le_rfl
  | succ k ih =>
    have h1 : u.afterBit.inq.length ≤ u.inq.length := by
      rcases u.load_cases with e | ⟨b, rest, _, hq, e⟩
      · simp [Hsd.afterBit, e]
      · simp [Hsd.afterBit, e, hq]
    exact le_trans (ih _ _) h1

theorem Hsd.takeFrom_value (k v : Nat) (u : Hsd) :
    v * 2 ^ k ≤ (Hsd.takeFrom v k u).1 ∧ (Hsd.takeFrom v k u).1 < (v + 1) * 2 ^ k := by
  induction k generalizing v u with
  | zero => simp [Hsd.takeFrom]
  | succ k ih =>
    have h := ih (2 * v + u.load.nextBit.toNat) u.afterBit
    have hb : u.load.nextBit.toNat ≤ 1 := by cases u.load.nextBit <;> simp
    have hp : 0 < 2 ^ k := Nat.two_pow_pos k
    simp only [Hsd.takeFrom, Nat.pow_succ]
    constructor
    · calc v * (2 ^ k * 2) = 2 * v * 2 ^ k := by ring
        _ ≤ (2 * v + u.load.nextBit.toNat) * 2 ^ k := Nat.mul_le_mul_right _ (by omega)
        _ ≤ _ := h.1
    · calc _ < (2 * v + u.load.nextBit.toNat + 1) * 2 ^ k := h.2
        _ ≤ (2 * v + 2) * 2 ^ k := Nat.mul_le_mul_right _ (by omega)
        _ = (v + 1) * (2 ^ k * 2) := by ring

/-- `take(k)` reads a k-bit value (R175). -/
theorem Hsd.takeValue_lt (k : Nat) (u : Hsd) : u.takeValue k < 2 ^ k := by
  have := (Hsd.takeFrom_value k 0 u).2
  simpa [Hsd.takeValue] using this

/-! ## The match search (spec/43_heatshrink_encoder.md R216) -/

/-- A match at one offset counts from `m` up to at most `n` more. -/
theorem matchLen_bounds (S : Nat → Byte) (p o n m : Nat) :
    m ≤ matchLen S p o n m ∧ matchLen S p o n m ≤ m + n := by
  induction n generalizing m with
  | zero => simp [matchLen]
  | succ n ih =>
    unfold matchLen
    split_ifs
    · have := ih (m + 1); omega
    · omega

/-- The search keeps a match of at most `maxlen` bytes at an offset it has tried. -/
theorem findLoop_bounds {S : Nat → Byte} {p maxlen : Nat} (n o : Nat) {best : Match} (ho : 1 ≤ o)
    (hl : best.len ≤ maxlen) (h1 : 0 < best.len → 1 ≤ best.off) (h2 : best.off < o) :
    (findLoop S p maxlen n o best).len ≤ maxlen ∧
      (0 < (findLoop S p maxlen n o best).len → 1 ≤ (findLoop S p maxlen n o best).off) ∧
        (findLoop S p maxlen n o best).off < o + n := by
  induction n generalizing o best with
  | zero => exact ⟨hl, h1, h2⟩
  | succ n ih =>
    unfold findLoop
    have hm := (matchLen_bounds S p o maxlen 0).2
    unfold Match.orBetter
    split_ifs with h
    · have := ih (o + 1) (best := ⟨matchLen S p o maxlen 0, o⟩) (by omega) (by simpa using hm) (fun _ => ho)
        (by simp)
      refine ⟨this.1, this.2.1, ?_⟩
      omega
    · have := ih (o + 1) (best := best) (by omega) hl h1 (by omega)
      refine ⟨this.1, this.2.1, ?_⟩
      omega

/-- `find` answers a length of at most `maxlen` at an offset of 1 to 2^W (R216). -/
theorem findMatch_bounds (w : Nat) (S : Nat → Byte) (p maxlen : Nat) :
    (findMatch w S p maxlen).len ≤ maxlen ∧
      (0 < (findMatch w S p maxlen).len → 1 ≤ (findMatch w S p maxlen).off) ∧
        (findMatch w S p maxlen).off ≤ 2 ^ w := by
  have := findLoop_bounds (S := S) (p := p) (maxlen := maxlen) (2 ^ w) 1 (best := ⟨0, 0⟩) le_rfl (Nat.zero_le _)
    (by simp) (by simp)
  refine ⟨this.1, this.2.1, ?_⟩
  have h3 := this.2.2
  simp only [findMatch]
  omega

/-! ## The dispatcher's reads (spec/45_framing_dispatcher.md R298) -/

/-- The exact-N read: the bytes are there and the phase goes on, or the source has ended short, or the step waits. -/
theorem fdRead_cases (n : Nat) (code : FatalCode) (s : State) (next : List Byte → State → FdAnswer) :
    (n ≤ s.fd.src.length ∧ fdRead n code s next = next (s.fd.front n) (s.withFd (s.fd.consumed n))) ∨
      (s.fd.src.length < n ∧ s.fd.eof = true ∧ fdRead n code s next = fdFatal code s 0) ∨
        (s.fd.src.length < n ∧ s.fd.eof = false ∧ fdRead n code s next = fdReturn s .wait 0) := by
  unfold fdRead
  split_ifs with h1 h2
  · exact .inl ⟨h1, rfl⟩
  · exact .inr (.inl ⟨by omega, h2, rfl⟩)
  · exact .inr (.inr ⟨by omega, by simpa using h2, rfl⟩)

theorem Fd.front_length {n : Nat} {f : Fd} (h : n ≤ f.src.length) : (f.front n).length = n := by
  simp [Fd.front, h]

theorem fdRespond_done (d : FdDone) :
    fdRespond (.done d) = .next (d.state.reply d.status (BitVec.ofNat 32 d.used) []) := rfl

theorem fdRespond_refused (r : Refusal) : fdRespond (.refused r) = .refused r := rfl

end Sys2Proof.Machine
end

