-- ==== Sys2Proof/Tests/Slice0.lean ====
section
/-! SUPPORT. The model's own tests: the smoke test of WellFormed, a word written out for every instruction, one-step
tests whose results are those of spec/95_test_vectors.md and of the rules' own examples, and, for every statement with
hypotheses, states and operands that meet them. -/

namespace Sys2Proof.Tests

open Sys2Proof.Machine Sys2Proof.Claims

set_option maxRecDepth 10000

/-! ## Helpers -/

/-- The outcome's state, or the state before where there is none. -/
def next (o : Claims.Answer) : State :=
  match o with
  | .next t => t
  | .fault _ => State.reset
  | .refused _ => State.reset

/-- The outcome is a next state. -/
def isNext (o : Claims.Answer) : Bool :=
  match o with
  | .next _ => true
  | .fault _ => false
  | .refused _ => false

/-- The refusal of an outcome. -/
def refusalOf (o : Claims.Answer) : Option Refusal :=
  match o with
  | .next _ => none
  | .fault _ => none
  | .refused r => some r

/-- The last response of an outcome. -/
def resp (o : Claims.Answer) : Option Response := (next o).host.responses.getLast?

/-- HSD configured with W = 8, L = 7, capacities `i` and `o`, and `inq` queued. -/
def hsd8 (i o : BitVec 32) (inq : List Byte) : Hsd :=
  { Hsd.cleared with cfgd := true, w := 8, l := 7, inCap := i, outCap := o, inq := inq }

/-- HSE configured with W = 4, L = 3, IN_CAP = 16, OUT_CAP = 2, and `q` queued. -/
def hse4 (fin : Bool) (q : List Byte) : Hse :=
  { Hse.cleared with cfgd := true, w := 4, l := 3, inCap := 16, outCap := 2, finishing := fin, q := q }

/-- The reset state with its HSD unit replaced. -/
def withHsd (u : Hsd) : State := { State.reset with hsd := u }

/-- The reset state with its HSE unit replaced. -/
def withHse (u : Hse) : State := { State.reset with hse := u }

/-- The reset state with its FD unit replaced. -/
def withFd (f : Fd) : State := { State.reset with fd := f }

/-- The dispatcher in a phase of a block, with `src` to read and `pay` as payload. -/
def fdIn (p : Phase) (src pay : List Byte) : Fd :=
  { Fd.started with phase := p, hdrDone := true, ckKind := 1, src := src, pay := pay }

/-- The file header of the containers of spec/95_test_vectors.md: "GCDE", version 1, checksum kind 1. -/
def h1 : List Byte := [0x47, 0x43, 0x44, 0x45, 1, 0, 0, 0, 1, 0]

/-- A command to issue, in the reset state. -/
def issuing (word : Word) (din : List Byte) : State := State.reset.willIssue ⟨word, din⟩

/-! ## WellFormed: an ill-formed term for each check -/

/-- A din of 2^32 bytes: one more than the transport carries (spec/30_encoding.md R90). -/
def tooLong : List Byte := List.replicate 4294967296 0#8

theorem test_tooLong_refused : dinFits tooLong = false := by
  unfold dinFits tooLong; rw [List.length_replicate]; decide
theorem test_crcSpan_illFormed : (Instr.crcSpan tooLong).wellFormed = false := test_tooLong_refused
theorem test_hsdSink_illFormed : (Instr.hsdSink tooLong).wellFormed = false := test_tooLong_refused
theorem test_hseSink_illFormed : (Instr.hseSink tooLong).wellFormed = false := test_tooLong_refused
theorem test_mpFeed_illFormed : (Instr.mpFeed tooLong).wellFormed = false := test_tooLong_refused
theorem test_fdPush_illFormed : (Instr.fdPush tooLong).wellFormed = false := test_tooLong_refused

/-- The longest din is well formed. -/
theorem test_longest_din_wellFormed : dinFits (List.replicate 4294967295 0#8) = true := by
  unfold dinFits; rw [List.length_replicate]; decide

/-! ## A word of every instruction, written out from spec/30_encoding.md R91 to R94 (UNIT, OP, IMM) -/

theorem test_decode_nop : decode ⟨0b0000_0000_000000000000000000000000#32, []⟩ = .ok .nop := by decide
theorem test_decode_resetAll : decode ⟨0b0000_0001_000000000000000000000000#32, []⟩ = .ok .resetAll := by decide
theorem test_decode_rdreg :
    decode ⟨0b0000_0010_000000000000_0101_0000_1101#32, []⟩ = .ok (.rdreg .fdBCrc) := by decide
theorem test_decode_crcClear : decode ⟨0b0001_0000_000000000000000000000000#32, []⟩ = .ok .crcClear := by decide
theorem test_decode_crcLoad :
    decode ⟨0b0001_0001_000000000000000000000000#32, [0x78, 0x56, 0x34, 0x12]⟩ = .ok (.crcLoad 0x12345678#32) := by
  decide
theorem test_decode_crcByte :
    decode ⟨0b0001_0010_0000000000000000_10100101#32, []⟩ = .ok (.crcByte 0xA5#8) := by decide
theorem test_decode_crcSpan :
    decode ⟨0b0001_0011_000000000000000000000000#32, [1, 2, 3]⟩ = .ok (.crcSpan [1, 2, 3]) := by decide
theorem test_decode_crcRead : decode ⟨0b0001_0100_000000000000000000000000#32, []⟩ = .ok .crcRead := by decide
theorem test_decode_hsdCfg :
    decode ⟨0b0010_0000_0000000000000000_0111_1000#32, [0x10, 0, 0, 0, 0, 0x02, 0, 0]⟩ =
      .ok (.hsdCfg 8#4 7#4 0x10#32 0x200#32) := by decide
theorem test_decode_hsdSink :
    decode ⟨0b0010_0001_000000000000000000000000#32, [0xB0]⟩ = .ok (.hsdSink [0xB0]) := by decide
theorem test_decode_hsdPoll : decode ⟨0b0010_0010_000000000000000000000000#32, []⟩ = .ok .hsdPoll := by decide
theorem test_decode_hsdFinish : decode ⟨0b0010_0011_000000000000000000000000#32, []⟩ = .ok .hsdFinish := by decide
theorem test_decode_hsdReset : decode ⟨0b0010_0100_000000000000000000000000#32, []⟩ = .ok .hsdReset := by decide
theorem test_decode_hseCfg :
    decode ⟨0b0011_0000_0000000000000000_0011_0100#32, [1, 0, 0, 0, 0, 0, 0, 1]⟩ =
      .ok (.hseCfg 4#4 3#4 1#32 0x1000000#32) := by decide
theorem test_decode_hseSink :
    decode ⟨0b0011_0001_000000000000000000000000#32, []⟩ = .ok (.hseSink []) := by decide
theorem test_decode_hsePoll : decode ⟨0b0011_0010_000000000000000000000000#32, []⟩ = .ok .hsePoll := by decide
theorem test_decode_hseFinish : decode ⟨0b0011_0011_000000000000000000000000#32, []⟩ = .ok .hseFinish := by decide
theorem test_decode_hseReset : decode ⟨0b0011_0100_000000000000000000000000#32, []⟩ = .ok .hseReset := by decide
theorem test_decode_mpReset : decode ⟨0b0100_0000_000000000000000000000000#32, []⟩ = .ok .mpReset := by decide
theorem test_decode_mpFeed :
    decode ⟨0b0100_0001_000000000000000000000000#32, [0xFF, 0xFF]⟩ = .ok (.mpFeed [0xFF, 0xFF]) := by decide
theorem test_decode_fdStart : decode ⟨0b0101_0000_000000000000000000000000#32, []⟩ = .ok .fdStart := by decide
theorem test_decode_fdPush :
    decode ⟨0b0101_0001_000000000000000000000000#32, [0x47]⟩ = .ok (.fdPush [0x47]) := by decide
theorem test_decode_fdEof : decode ⟨0b0101_0010_000000000000000000000000#32, []⟩ = .ok .fdEof := by decide
theorem test_decode_fdStep : decode ⟨0b0101_0011_000000000000000000000000#32, []⟩ = .ok .fdStep := by decide
theorem test_decode_fdAbort : decode ⟨0b0101_0100_000000000000000000000000#32, []⟩ = .ok .fdAbort := by decide
theorem test_decode_fdResult :
    decode ⟨0b0101_0101_100000000000000000000001#32, []⟩ = .ok (.fdResult 0x800001#24) := by decide
theorem test_decode_fdRun : decode ⟨0b0101_0110_000000000000000000000000#32, []⟩ = .ok .fdRun := by decide

/-- D-SYS5, D-SYS6, D-SYS7, D-SYS9, D-CRC16, D-CRC17: each clause of R97 by its name. -/
theorem test_malformed_by_name :
    decode ⟨0x02000001#32, []⟩ = .error .unassignedRegister ∧ decode ⟨0x02001000#32, []⟩ = .error .immBits ∧
    decode ⟨0x03000000#32, []⟩ = .error .reservedOp ∧ decode ⟨0xFFFFFFFF#32, []⟩ = .error .reservedUnit ∧
    decode ⟨0x11000000#32, [1, 2, 3]⟩ = .error .dinLength ∧ decode ⟨0x12000100#32, []⟩ = .error .immBits := by decide

/-- The words of the opcode table as the host numbers them, and where a step runs them. -/
theorem test_table_words :
    decodeTableWord 32 0x02000203 = some (.rdreg .hsdStat) ∧ decodeTableWord 32 0x11000000 = some (.crcLoad 0) ∧
    decodeTableWord 32 0x20000078 = some (.hsdCfg 8 7 0 0) ∧ decodeTableWord 32 0x57000000 = none := by decide
theorem test_table_word_runs :
    resp (step (State.reset.withFetchWord 32 0x02000000)) = some ⟨.ok, 8, [0x53, 0x44, 0x43, 0x31, 0, 0, 0, 0]⟩ := by
  decide
theorem test_table_word_is_issued :
    (State.reset.withFetchWord 32 0x53000000).host.pending = [⟨0x53000000#32, []⟩] := by decide

/-! ## SYS: D-SYS1, D-SYS2, D-SYS10, D-SYS4 -/

theorem test_nop : resp (step (issuing 0x00000000#32 [])) = some ⟨.ok, 0, []⟩ := by decide
theorem test_nop_imm_illegal : resp (step (issuing 0x00000001#32 [])) = some ⟨.illegal, 0, []⟩ := by decide
theorem test_resetAll_clears :
    (next (exec .resetAll (withHsd (hsd8 16 2 [1])))).hsd = Hsd.cleared ∧
    (next (exec .resetAll { State.reset with crcAcc := 0xCBF43926#32 })).crcAcc = 0#32 := by decide
theorem test_rdreg_sysId :
    resp (exec (.rdreg .sysId) State.reset) = some ⟨.ok, 8, [0x53, 0x44, 0x43, 0x31, 0, 0, 0, 0]⟩ := by decide
/-- R173's example: after HSD_CFG 8, 7, HSD_CFG reads 0x178. -/
theorem test_rdreg_hsdCfg :
    resp (exec (.rdreg .hsdCfg) (withHsd (hsd8 16 16 []))) = some ⟨.ok, 8, [0x78, 0x01, 0, 0, 0, 0, 0, 0]⟩ := by decide

/-! ## CRC: D-CRC15, D-CRC12, D-CRC2, D-CRC4, D-CRC13, D-CRC14 -/

theorem test_crcClear : (next (exec .crcClear { State.reset with crcAcc := 0xCBF43926#32 })).crcAcc = 0#32 := by decide
theorem test_crcLoad : (next (step (issuing 0x11000000#32 [0x26, 0x39, 0xF4, 0xCB]))).crcAcc = 0xCBF43926#32 := by
  decide
theorem test_crcByte : (next (exec (.crcByte 0) State.reset)).crcAcc = 0xD202EF8D#32 := by decide
theorem test_crcSpan_check :
    (next (exec (.crcSpan [0x31, 0x32, 0x33, 0x34, 0x35, 0x36, 0x37, 0x38, 0x39]) State.reset)).crcAcc =
      0xCBF43926#32 := by decide
theorem test_crcSpan_resumes :
    (next (exec (.crcSpan [0x78]) { State.reset with crcAcc := 0xCBF43926#32 })).crcAcc = 0x5E1A6747#32 := by decide
theorem test_crcRead :
    resp (exec .crcRead { State.reset with crcAcc := 0xCBF43926#32 }) = some ⟨.ok, 4, [0x26, 0x39, 0xF4, 0xCB]⟩ := by
  decide

/-! ## HSD: R173's examples, R174's, D-HSD11, D-HSD17, R178, D-HSD19 -/

theorem test_hsdCfg_ok : resp (exec (.hsdCfg 8 7 16 16) State.reset) = some ⟨.ok, 0, []⟩ := by decide
theorem test_hsdCfg_window_equals_lookahead :
    resp (exec (.hsdCfg 8 8 16 16) (withHsd (hsd8 16 2 [1]))) = some ⟨.range, 0, []⟩ ∧
    (next (exec (.hsdCfg 8 8 16 16) (withHsd (hsd8 16 2 [1])))).hsd = Hsd.cleared := by decide
theorem test_hsdSink_partial :
    resp (exec (.hsdSink [0xB0, 0x80, 0x01, 0x80]) (withHsd (hsd8 2 16 []))) = some ⟨.ok, 2, []⟩ ∧
    (next (exec (.hsdSink [0xB0, 0x80, 0x01, 0x80]) (withHsd (hsd8 2 16 [])))).hsd.inq = [0xB0, 0x80] := by decide
theorem test_hsdSink_full : resp (exec (.hsdSink []) (withHsd (hsd8 1 16 [1]))) = some ⟨.full, 0, []⟩ := by decide
theorem test_hsdPoll_more :
    resp (exec .hsdPoll (withHsd (hsd8 16 2 [0xB0, 0x80, 0x01, 0x80]))) = some ⟨.more, 2, [0x61, 0x61]⟩ := by decide
/-- D-HSD7: offset 256 and length 128, both at their maxima, from the zero dictionary. -/
theorem test_hsdPoll_longest :
    resp (exec .hsdPoll (withHsd (hsd8 16 200 [0x7F, 0xFF, 0xC0]))) = some ⟨.empty, 128, List.replicate 128 0⟩ := by
  decide
theorem test_hsdFinish_queued : resp (exec .hsdFinish (withHsd (hsd8 16 2 [1]))) = some ⟨.more, 0, []⟩ := by decide
theorem test_hsdFinish_done : resp (exec .hsdFinish (withHsd (hsd8 16 2 []))) = some ⟨.done, 0, []⟩ := by decide
theorem test_hsdReset_keeps_config :
    (next (exec .hsdReset (withHsd { hsd8 16 2 [1] with head := 5, misuse := true, dict := [(0, 1)] }))).hsd =
      hsd8 16 2 [] := by decide
theorem test_hsdReset_unconfigured :
    resp (exec .hsdReset State.reset) = some ⟨.misuse, 0, []⟩ ∧
    (next (exec .hsdReset State.reset)).hsd.stat = 0x10#6 := by decide

/-! ## HSE: R213, R215, D-HSE15, D-HSE25, D-HSE24, D-HSE26 -/

theorem test_hseCfg_ok : resp (exec (.hseCfg 8 7 16 16) State.reset) = some ⟨.ok, 0, []⟩ := by decide
theorem test_hseCfg_no_output_room : resp (exec (.hseCfg 8 7 16 0) State.reset) = some ⟨.range, 0, []⟩ := by decide
theorem test_hseSink : resp (exec (.hseSink [0x61, 0x61, 0x61, 0x61, 0x61]) (withHse (hse4 false []))) =
    some ⟨.ok, 5, []⟩ := by decide
theorem test_hseSink_finishing : resp (exec (.hseSink [0x61]) (withHse (hse4 true []))) = some ⟨.misuse, 0, []⟩ := by
  decide
/-- D-HSE15's first two bytes: L'a', and the tag and six bits of L'b'. -/
theorem test_hsePoll_more :
    resp (exec .hsePoll (withHse (hse4 true
      [0x61, 0x62, 0x61, 0x62, 0x61, 0x62, 0x61, 0x62, 0x61, 0x62, 0x61, 0x62]))) =
      some ⟨.more, 2, [0xB0, 0xD8]⟩ := by decide
/-- R221: before FINISH nothing is encoded while fewer than min(2^L, IN_CAP) bytes are queued. -/
theorem test_hsePoll_waits :
    resp (exec .hsePoll (withHse (hse4 false [0x61, 0x61, 0x61]))) = some ⟨.empty, 0, []⟩ := by decide
theorem test_hseFinish_empty : resp (exec .hseFinish (withHse (hse4 false []))) = some ⟨.done, 0, []⟩ := by decide
theorem test_hseFinish_queued : resp (exec .hseFinish (withHse (hse4 false [1]))) = some ⟨.more, 0, []⟩ := by decide
/-- R226: the reference vector at IN_CAP 3. -/
theorem test_hsEncode_inCap3 : hsEncode 8 7 3 [0x61, 0x61, 0x61, 0x61, 0x61] = [0xB0, 0x80, 0x01, 0x58, 0x40] := by
  decide +kernel

theorem test_hseReset_keeps_config :
    (next (exec .hseReset (withHse { hse4 true [1] with nbits := 3, obits := 5, hist := [(15, 1)] }))).hse =
      hse4 false [] := by decide

/-! ## MPU: R253, R254, D-MP10 -/

theorem test_mpReset :
    (next (exec .mpReset { State.reset with mpu := { Mpu.cleared with packing := true, fcq := 2 } })).mpu =
      Mpu.cleared := by decide
theorem test_mpFeed :
    resp (exec (.mpFeed [0xFF, 0xFF, 0xFB, 0x1D, 0xEB, 0x01, 0x0C]) State.reset) =
      some ⟨.ok, 7, [0x47, 0x31, 0x20, 0x58, 0x31, 0x30, 0x0A]⟩ := by decide
/-- With MP_NL_SKIP false the high nibble after a low-nibble newline is decoded. -/
theorem test_mpFeed_without_skip :
    resp (exec (.mpFeed [0xFF, 0xFF, 0xFB, 0x0C]) { State.reset with mpNlSkip := false }) =
      some ⟨.ok, 2, [0x0A, 0x30]⟩ := by decide

/-! ## FD: R293 to R314, D-FD4, D-FD6, D-FD11, D-FD13, D-FD28 -/

theorem test_fdStart : (next (exec .fdStart (withFd (fdIn .error [1] [2])))).fd = Fd.started := by decide
theorem test_fdPush :
    resp (exec (.fdPush [0x47, 0x43, 0x44, 0x45]) (withFd Fd.started)) = some ⟨.ok, 4, []⟩ ∧
    (next (exec (.fdPush [0x47]) (withFd (fdIn .crc [9] [])))).fd.src = [9, 0x47] := by decide
theorem test_fdPush_idle : resp (exec (.fdPush [0]) State.reset) = some ⟨.misuse, 0, []⟩ := by decide
theorem test_fdEof_twice :
    resp (exec .fdEof (withFd Fd.started)) = some ⟨.ok, 0, []⟩ ∧
    resp (exec .fdEof (withFd { Fd.started with eof := true })) = some ⟨.misuse, 0, []⟩ := by decide
theorem test_fdStep_fileHdr :
    resp (exec .fdStep (withFd { Fd.started with src := h1 })) = some ⟨.ok, 10, []⟩ ∧
    (next (exec .fdStep (withFd { Fd.started with src := h1 }))).fd.phase = .blkHdr := by decide
/-- D-FD13: the type is checked first, and the count is the bytes of the header. -/
theorem test_fdStep_badType :
    resp (exec .fdStep (withFd (fdIn .blkHdr [6, 0, 4, 0, 0, 0, 0, 0] []))) = some ⟨.fatal, 8, []⟩ ∧
    (next (exec .fdStep (withFd (fdIn .blkHdr [6, 0, 4, 0, 0, 0, 0, 0] [])))).fd.error = .badType := by decide
theorem test_fdAbort :
    (next (exec .fdAbort (withFd Fd.started))).fd.abortReq = true ∧
    (next (exec .fdAbort State.reset)).fd.abortReq = false := by decide
/-- D-FD6: a plain Gcode block parses, and its text goes to the TEXT port. -/
theorem test_fdRun_gcode :
    resp (exec .fdRun (withFd { Fd.started with eof := true, src :=
      h1 ++ [1, 0, 0, 0, 4, 0, 0, 0, 0, 0, 0x47, 0x32, 0x38, 0x0A, 0x54, 0x3C, 0x39, 0x93] })) =
        some ⟨.done, 28, []⟩ ∧
    (next (exec .fdRun (withFd { Fd.started with eof := true, src :=
      h1 ++ [1, 0, 0, 0, 4, 0, 0, 0, 0, 0, 0x47, 0x32, 0x38, 0x0A, 0x54, 0x3C, 0x39, 0x93] }))).host.events =
        [.text [0x47, 0x32, 0x38, 0x0A]] := by decide
/-- D-FD11: a bad checksum kind is fatal after 10 bytes, with what was read kept. -/
theorem test_fdRun_badCkKind :
    resp (exec .fdRun (withFd { Fd.started with eof := true, src := [0x47, 0x43, 0x44, 0x45, 1, 0, 0, 0, 2, 0] })) =
        some ⟨.fatal, 10, []⟩ ∧
    (next (exec .fdRun (withFd { Fd.started with
      eof := true, src := [0x47, 0x43, 0x44, 0x45, 1, 0, 0, 0, 2, 0] }))).fd.flags = 5#5 := by decide

/-- The dispatcher in DONE with the record of D-FD4. -/
def doneFd : Fd :=
  { Fd.started with
    phase := .done, eof := true, hdrDone := true, magicOk := true,
    results := [{ btype := 2, comp := 0, usize := 4, csize := 0, params := 0, ckKind := 0, valid := true,
                  sizeMismatch := false, route := .ini, storedCrc := 0, computedCrc := 0, decLen := 4,
                  routed := [0x61, 0x3D, 0x31, 0x0A] }] }

/-- D-FD4's FD_RESULT 0, byte by byte. -/
theorem test_fdResult :
    resp (exec (.fdResult 0) (withFd doneFd)) = some ⟨.ok, 40,
      [2, 0, 0, 0, 4, 0, 0, 0, 0, 0, 0, 0, 0, 0, 0, 0, 0, 0, 0, 0, 1, 0, 0, 0, 0, 0, 0, 0, 0, 0, 0, 0, 4, 0, 0, 0,
       0x61, 0x3D, 0x31, 0x0A]⟩ := by decide
theorem test_fdResult_past_the_records : resp (exec (.fdResult 1) (withFd doneFd)) = some ⟨.misuse, 0, []⟩ := by decide

/-! ## Witnesses: states and operands that meet each statement's hypotheses, clause by clause

A statement without hypotheses has none. The names are those of the statements. -/

theorem test_witness_DecodeInvertsEncode :
    (Instr.hsdCfg 15 14 0xFFFFFFFF#32 1).wellFormed = true ∧ (Instr.crcSpan [1]).wellFormed = true ∧
    (Instr.fdResult 0xFFFFFF#24).wellFormed = true := by decide

theorem test_witness_EncodeInvertsDecode : decode ⟨0x2000007F#32, List.replicate 8 0xFF⟩ =
    .ok (.hsdCfg 15 7 0xFFFFFFFF#32 0xFFFFFFFF#32) := by decide

/-- Each clause of R97 at the first value it takes in; the first value past it is well formed or under another clause. -/
theorem test_witness_MalformedCommandsAnswerIllegal :
    Malformed 0x60 0 [] ∧ Malformed 0x57 0 [] ∧ Malformed 0x15 0 [] ∧ Malformed 0x00 1 [] ∧
    Malformed 0x12 256 [] ∧ Malformed 0x20 256 (List.replicate 8 0) ∧ Malformed 0x02 4096 [] ∧
    Malformed 0x11 0 [1, 2, 3] ∧ Malformed 0x20 0 (List.replicate 9 0) ∧ Malformed 0x55 0 [0] ∧
    Malformed 0x02 0x001 [] ∧ Malformed 0x02 0x50E [] := by
  refine ⟨?_, ?_, ?_, ?_, ?_, ?_, ?_, ?_, ?_, ?_, ?_, ?_⟩ <;> (unfold Malformed Assigned DinRight; decide)

theorem test_witness_wellFormedCommands :
    ¬ Malformed 0x56 0 [] ∧ ¬ Malformed 0x12 255 [] ∧ ¬ Malformed 0x20 255 (List.replicate 8 0) ∧
    ¬ Malformed 0x02 0x50D [] ∧ ¬ Malformed 0x11 0 [1, 2, 3, 4] ∧ ¬ Malformed 0x55 0xFFFFFF [] ∧
    ¬ Malformed 0x51 0 [] := by
  refine ⟨?_, ?_, ?_, ?_, ?_, ?_, ?_⟩ <;> (unfold Malformed Assigned DinRight; decide)

theorem test_witness_StepExecutesTheNextCommand :
    (issuing 0x10000000#32 []).host.pending = [⟨0x10000000#32, []⟩] ∧ decode ⟨0x10000000#32, []⟩ = .ok .crcClear ∧
    decode ⟨0x10000001#32, []⟩ = .error .immBits ∧ State.reset.host.pending = [] := by decide

/-- Queues at and below their capacity, and a record held. -/
theorem test_witness_RegisterNumbersAndFields :
    (withHsd (hsd8 1 1 [9])).hsd.inq.length ≤ (withHsd (hsd8 1 1 [9])).hsd.inCap.toNat ∧
    (withHse (hse4 true [1, 2])).hse.q.length ≤ (withHse (hse4 true [1, 2])).hse.inCap.toNat ∧
    (withFd doneFd).fd.results.length < 2 ^ 32 ∧ (withFd (fdIn .crc [1, 2] [])).fd.src.length < 2 ^ 64 := by decide

theorem test_witness_ResetStateHoldsResetValues :
    exec .resetAll (withFd doneFd) = .next (next (exec .resetAll (withFd doneFd))) := rfl

theorem test_witness_CommandsTouchOnlyTheirUnit :
    exec .nop (withFd doneFd) = .next (next (exec .nop (withFd doneFd))) ∧
    exec .crcClear (withFd doneFd) = .next (next (exec .crcClear (withFd doneFd))) ∧
    exec .fdStep (withFd doneFd) = .next (next (exec .fdStep (withFd doneFd))) := ⟨rfl, rfl, rfl⟩

/-- Two states that agree on a unit and differ in another, for each unit. -/
theorem test_witness_CommandsReadOnlyTheirUnit :
    (isNext (exec .crcRead State.reset) = true ∧ State.reset.crcAcc = (withFd doneFd).crcAcc) ∧
    (isNext (exec .hsdPoll (withHsd (hsd8 1 1 []))) = true ∧
      (withHsd (hsd8 1 1 [])).hsd = { withHsd (hsd8 1 1 []) with crcAcc := 1 }.hsd) ∧
    (isNext (exec .hsePoll (withHse (hse4 true []))) = true ∧
      (withHse (hse4 true [])).hse = { withHse (hse4 true []) with crcAcc := 1 }.hse) ∧
    (isNext (exec (.mpFeed [1]) State.reset) = true ∧ State.reset.mpu = (withFd doneFd).mpu) ∧
    (isNext (exec .fdRun (withFd doneFd)) = true ∧
      (withFd doneFd).fd = { withFd doneFd with hsd := hsd8 1 1 [] }.fd) ∧
    (withFd doneFd).host = State.reset.host ∧ (withFd doneFd).mpNlSkip = State.reset.mpNlSkip := by decide

theorem test_witness_EveryCommandAnswersOnce : isNext (exec .fdRun State.reset) = true := by decide

/-- A block of 2^32 bytes, one of whose decodings is its own bytes. -/
def oversized : State := withFd { fdIn .decode [] (List.replicate 4294967296 0#8) with btype := 2 }

theorem oversized_length : (2 : Nat) ^ 32 - 37 < (List.replicate 4294967296 0#8 : List Byte).length := by
  rw [List.length_replicate]; decide

/-- A step in DECODE of an uncompressed payload over the limit is refused. -/
theorem fdStep_refused_of_payload (s : State) (hp : s.fd.phase = .decode) (hc : s.fd.comp = 0#16)
    (hl : blockLimit < s.fd.pay.length) : fdStep s = .refused .blockTooLong := by
  simp [fdStep, fdDecode, State.decompressed, hp, hc, hl]

theorem oversized_refused : fdStep oversized = .refused .blockTooLong :=
  fdStep_refused_of_payload oversized rfl rfl (by
    show 4294967259 < (List.replicate 4294967296 0#8 : List Byte).length
    rw [List.length_replicate]; decide)

theorem oversized_is : Oversized oversized :=
  ⟨rfl, List.replicate 4294967296 0#8, oversized, .inl ⟨rfl, rfl, rfl⟩, .inl oversized_length⟩

/-- A run whose first step is refused is refused. -/
theorem fdRun_refused_at_once (s : State) (r : Refusal) (h : fdStep s = .refused r) : fdRun s = .refused r := by
  simp [fdRun, Fd.runFuel, fdRunLoop, h]

/-- The source at its last byte, and one byte past it. -/
theorem test_witness_OnlyOversizeRefuses :
    refusalOf (exec (.fdPush [0]) (withFd { Fd.started with cursor := 0xFFFFFFFFFFFFFFFE#64 })) = none ∧
    refusalOf (exec (.fdPush [0]) (withFd { Fd.started with cursor := 0xFFFFFFFFFFFFFFFF#64 })) =
      some .sourceTooLong := by decide

theorem test_witness_OnlyOversizeRefuses_block : exec .fdStep oversized = .refused .blockTooLong := by
  show fdRespond (fdStep oversized) = _
  rw [oversized_refused]; rfl

theorem test_witness_OnlyOversizeRefuses_run : exec .fdRun oversized = .refused .blockTooLong := by
  show fdRespond (fdRun oversized) = _
  rw [fdRun_refused_at_once _ _ oversized_refused]; rfl

theorem test_witness_CrcDetectsOneByte : (0x00#8 : Byte) ≠ 0x80#8 := by decide

/-- All the bits there are, with and without a loaded byte. -/
theorem test_witness_TakeReadsTheNextBits :
    8 ≤ (hsd8 1 1 [0xB0]).avail ∧ (hsd8 1 1 [0xB0]).left.toNat ≤ 8 ∧
    11 ≤ { hsd8 1 1 [0xB0] with cur := 0xFF, left := 3 }.avail ∧
    { hsd8 1 1 [0xB0] with cur := 0xFF, left := 8 }.left.toNat ≤ 8 ∧
    { hsd8 1 1 [0xB0] with cur := 0xFF, left := 8 }.left ≠ 0 ∧
    (hsd8 1 1 [0xB0]).left = 0 ∧ (hsd8 1 1 [0xB0]).inq = [0xB0] := by decide

theorem test_witness_HsdPollRule :
    (withHsd (hsd8 1 1 [])).hsd.cfgd = true ∧ State.reset.hsd.cfgd = false := by decide

theorem test_witness_HsdPollResponse : (withHsd (hsd8 16 2 [0xB0, 0x80, 0x01, 0x80])).hsd.cfgd = true := by decide

/-- A host that configures 8, 7, 16, 2, sinks four bytes, polls, and finishes. -/
def hsdScript : List Instr := [.hsdSink [0xB0, 0x80, 0x01, 0x80], .hsdPoll, .hsdPoll, .hsdPoll, .hsdFinish]

theorem test_witness_HsdStreamIsPureDecode :
    ConfigLegal 8 7 16 2 ∧
    exec (.hsdCfg 8 7 16 2) State.reset = .next (next (exec (.hsdCfg 8 7 16 2) State.reset)) ∧
    HsdScript hsdScript ∧
    (codecTrace hsdScript (next (exec (.hsdCfg 8 7 16 2) State.reset))).final.hsd.done = true := by
  refine ⟨by unfold ConfigLegal; decide, rfl, ?_, by decide⟩
  intro i hi
  simp only [hsdScript, List.mem_cons, List.not_mem_nil, or_false] at hi
  rcases hi with rfl | rfl | rfl | rfl | rfl
  · exact .inl ⟨_, rfl⟩
  all_goals simp

/-- A unit with a byte in its dictionary, fresh units at the smallest and the largest offset, and the pure window's. -/
theorem test_witness_WindowReadsBackOutput :
    Memory.wf (2 ^ { hsd8 1 1 [] with dict := [(255, 1)] }.w.toNat) { hsd8 1 1 [] with dict := [(255, 1)] }.dict ∧
    ((hsd8 1 1 []).dict = [] ∧ (hsd8 1 1 []).head = 0) ∧
    (1 ≤ { hsd8 1 1 [] with index := 1 }.index.toNat ∧
      { hsd8 1 1 [] with index := 256 }.index.toNat ≤ 2 ^ { hsd8 1 1 [] with index := 256 }.w.toNat) ∧
    ((1 : Nat) ≤ 16 ∧ 16 ≤ 2 ^ 4) := by decide

/-- Each state of the decoder has its own step. -/
theorem test_witness_HsdPollRule_states :
    ∀ d ∈ [DState.tag, .lit, .idxHi, .idxLo, .cntHi, .cntLo], { hsd8 1 1 [] with dstate := d }.dstate = d := by decide

theorem test_witness_HsePollRule :
    (withHse (hse4 false [])).hse.cfgd = true ∧ State.reset.hse.cfgd = false := by decide

/-- Eight bits pending, and one and seven. -/
theorem test_witness_HsePollRule_output :
    8 ≤ { hse4 true [] with nbits := 8 }.nbits.toNat ∧ 0 < { hse4 true [] with nbits := 1 }.nbits.toNat ∧
    { hse4 true [] with nbits := 7 }.nbits.toNat < 8 := by decide

/-- An encoder with seven bits pending that will encode a backreference, and one that will encode a literal. -/
theorem test_witness_HsePollRule_token :
    ({ hse4 true [0, 0] with nbits := 7, obits := 127 }.Inv ∧ UsesMatch { hse4 true [0, 0] with nbits := 7, obits := 127 }) ∧
    ((hse4 true [1]).Inv ∧ ¬ UsesMatch (hse4 true [1])) ∧
    { hse4 true [0, 0] with nbits := 7, obits := 127 }.cfgd = true ∧
    { hse4 true [0, 0] with nbits := 7, obits := 127 }.nbits.toNat < 8 ∧ (hse4 true [1]).q ≠ [] :=
  ⟨⟨by constructor <;> (try unfold ConfigLegal) <;> decide, by decide⟩,
    ⟨by constructor <;> (try unfold ConfigLegal) <;> decide, by decide⟩, by decide, by decide, by decide⟩

/-- A match that runs into its own bytes: over a sequence of zeros, three bytes agree at every offset. -/
theorem test_witness_MatchSearchIsGreedy :
    2 ^ 4 ≤ 16 ∧ 0 < (findMatch 4 (fun _ => 0#8) 16 3).len ∧ Agrees (fun _ => 0#8) 16 16 3 :=
  ⟨by decide, by decide, fun _ _ => rfl⟩

/-- A smaller offset that does not agree: the only match is at offset 2. -/
theorem test_witness_MatchSearchIsGreedy_smaller :
    1 < (findMatch 4 (fun i => BitVec.ofNat 8 (i % 2)) 16 3).off := by decide

/-- A host that configures 4, 3, 16, 2, sinks three bytes, finishes and polls. -/
def hseScript : List Instr := [.hseSink [0x61, 0x61, 0x61], .hsePoll, .hseFinish, .hsePoll, .hsePoll]

theorem test_witness_HseStreamIsPureEncode :
    ConfigLegal 4 3 16 2 ∧
    exec (.hseCfg 4 3 16 2) State.reset = .next (next (exec (.hseCfg 4 3 16 2) State.reset)) ∧
    HseScript hseScript ∧
    (codecTrace hseScript (next (exec (.hseCfg 4 3 16 2) State.reset))).final.hse.done = true := by
  refine ⟨by unfold ConfigLegal; decide, rfl, ?_, by decide⟩
  intro i hi
  simp only [hseScript, List.mem_cons, List.not_mem_nil, or_false] at hi
  rcases hi with rfl | rfl | rfl | rfl | rfl
  · exact .inl ⟨_, rfl⟩
  all_goals simp

/-- The smallest and the largest configuration. -/
theorem test_witness_EncodeDecodeRoundTrip :
    (4 ≤ 4 ∧ 4 ≤ 15 ∧ 3 ≤ 3 ∧ 3 ≤ 4 - 1 ∧ 1 ≤ 1) ∧ (4 ≤ 15 ∧ 15 ≤ 15 ∧ 3 ≤ 14 ∧ 14 ≤ 15 - 1) := by decide

theorem test_witness_UnconfiguredCodecIsMisuse :
    State.reset.hsd.cfgd = false ∧ State.reset.hse.cfgd = false := by decide

theorem test_witness_MpFeedRule : (State.reset.mpu.feed State.reset.mpNlSkip [0x41]).dout.length < 2 ^ 32 := by decide

theorem test_witness_MpTables : (0xF8#8 : Byte) ∉ [0xFB#8, 0xFA#8, 0xF9#8, 0xF7#8, 0xF6#8] := by decide

/-- The last record, the first index past the records, and a phase other than DONE. -/
theorem test_witness_FdResultRule :
    (withFd doneFd).fd.phase = .done ∧ (0#24).toNat < (withFd doneFd).fd.nblocks.toNat ∧
    (withFd doneFd).fd.nblocks.toNat ≤ (1#24).toNat ∧ State.reset.fd.phase ≠ .done := by decide

theorem test_witness_FdHeaderPhases :
    (withFd Fd.started).fd.phase = .fileHdr ∧ (withFd (fdIn .blkHdr [] [])).fd.phase = .blkHdr := by decide

theorem test_witness_FdBodyPhases :
    (withFd (fdIn .blkCSize [] [])).fd.phase = .blkCSize ∧ (withFd (fdIn .params [] [])).fd.phase = .params ∧
    (withFd (fdIn .payload [] [])).fd.phase = .payload ∧ (withFd (fdIn .crc [] [])).fd.phase = .crc := by decide

/-- A block in DECODE, with an INFLATE and an IMAGE answer prepared. -/
def decodeIn (btype comp : BitVec 16) (bparam : BitVec 48) (answer : Option (List Byte)) : State :=
  { withFd { fdIn .decode [] [0x80] with btype := btype, comp := comp, bparam := bparam } with
    host := { HostSide.start with inflateAnswers := [answer], imageAnswers := [true] } }

theorem test_witness_FdDecodePhase_inflateError :
    (decodeIn 0 1 0 none).fd.phase = .decode ∧ (decodeIn 0 1 0 none).fd.comp = 1 ∧
    (decodeIn 0 1 0 none).inflateAnswer (decodeIn 0 1 0 none).fd.pay = none := by decide

/-- Each compression code decodes. -/
theorem test_witness_FdDecodePhase_codes :
    DecodesTo (decodeIn 0 0 0 none) [0x80] (decodeIn 0 0 0 none) ∧
    DecodesTo (decodeIn 0 1 0 (some [1])) [1] ((decodeIn 0 1 0 (some [1])).inflateCalled [0x80]) ∧
    DecodesTo (decodeIn 0 2 0 none) (hsDecode 11 4 [0x80]) (decodeIn 0 2 0 none) ∧
    DecodesTo (decodeIn 0 3 0 none) (hsDecode 12 4 [0x80]) (decodeIn 0 3 0 none) :=
  ⟨.inl ⟨rfl, rfl, rfl⟩, .inr (.inl ⟨rfl, rfl, rfl⟩), .inr (.inr (.inl ⟨rfl, rfl, rfl⟩)),
    .inr (.inr (.inr ⟨rfl, rfl, rfl⟩))⟩

/-- The hypotheses of a clause of FdDecodePhase, at an uncompressed block of type `btype` and parameter code `code`. -/
def ClauseMet (btype : BitVec 16) (bparam : BitVec 48) (code : BitVec 16) : Prop :=
  (decodeIn btype 0 bparam none).fd.phase = .decode ∧
  DecodesTo (decodeIn btype 0 bparam none) [0x80] (decodeIn btype 0 bparam none) ∧
  ([0x80] : List Byte).length ≤ 2 ^ 32 - 37 ∧ (decodeIn btype 0 bparam none).fd.btype = btype ∧
  (decodeIn btype 0 bparam none).fd.bparam.extractLsb' 0 16 = code

/-- A Gcode block of encoding 0, 1, 2 and 3, a thumbnail of format 0, 1, 2 and 3, and a property block of encoding 0
and 1. -/
theorem test_witness_FdDecodePhase :
    ClauseMet 1 0 0 ∧ ClauseMet 1 1 1 ∧ ClauseMet 1 2 2 ∧ ClauseMet 1 3 3 ∧
    ClauseMet 5 0x100010000 0 ∧ ClauseMet 5 1 1 ∧ ClauseMet 5 2 2 ∧ ClauseMet 5 3 3 ∧
    ClauseMet 0 0 0 ∧ ClauseMet 4 1 1 := by
  refine ⟨?_, ?_, ?_, ?_, ?_, ?_, ?_, ?_, ?_, ?_⟩ <;>
    exact ⟨by decide, .inl ⟨rfl, rfl, rfl⟩, by decide, by decide, by decide⟩

theorem test_witness_FdDecodePhase_shortText :
    (mpDecode true [0x80]).length ≤ 2 ^ 32 - 37 := by decide

theorem test_witness_FdDecodePhase_oversized : Oversized oversized := oversized_is

theorem test_witness_FdDecodePhase_answers :
    (decodeIn 0 1 0 (some [1])).host.inflateAnswers = [some [1]] ∧ (decodeIn 5 0 0 none).host.imageAnswers = [true] := by
  decide

/-- A packed byte 0x11 outputs two characters and leaves an unpacker with nothing pending as it was. -/
theorem byte_eleven (nl : Bool) (m : Mpu) (hp : m.packing = true) (hf : m.fcq = 0) (hc : m.cmdCount = false)
    (ha : m.cmdActive = false) (hs : m.addSpace = false) :
    (m.byte nl 0x11).dout.length = 2 ∧ (m.byte nl 0x11).unit.packing = true ∧ (m.byte nl 0x11).unit.fcq = 0 ∧
    (m.byte nl 0x11).unit.cmdCount = false ∧ (m.byte nl 0x11).unit.cmdActive = false ∧
    (m.byte nl 0x11).unit.addSpace = false := by
  simp [Mpu.byte, Mpu.reinject, Mpu.rx, Mpu.unpack, Mpu.emit, Mpu.noteLine, Mpu.restoreSpace, Mpu.outUnlessDouble,
    Mpu.out, Mpu.silent, MpOut.andThen, Mpu.sym, loNibble, hiNibble, hp, hf, hc, ha, hs]

theorem feed_elevens (nl : Bool) (n : Nat) : ∀ m : Mpu, m.packing = true → m.fcq = 0 → m.cmdCount = false →
    m.cmdActive = false → m.addSpace = false → (m.feed nl (List.replicate n 0x11)).dout.length = 2 * n := by
  induction n with
  | zero => intro m _ _ _ _ _; rfl
  | succ n ih =>
    intro m hp hf hc ha hs
    obtain ⟨h0, h1, h2, h3, h4, h5⟩ := byte_eleven nl m hp hf hc ha hs
    rw [List.replicate_succ, Mpu.feed, MpOut.andThen, List.length_append, h0, ih _ h1 h2 h3 h4 h5]
    omega

/-- A MeatPack payload of 2^31 + 3 bytes whose text has 2^32. -/
def longText : List Byte := [0xFF, 0xFF, 0xFB] ++ List.replicate 2147483648 0x11

/-- Three bytes enable packing; the rest is fed to a unit with packing on and nothing pending. -/
theorem mpDecode_packed (l : List Byte) :
    mpDecode true ([0xFF, 0xFF, 0xFB] ++ l) = (Mpu.feed true l { Mpu.cleared with packing := true }).dout := rfl

theorem longText_length : (mpDecode true longText).length = 2 * 2147483648 := by
  unfold longText
  rw [mpDecode_packed, feed_elevens true _ _ rfl rfl rfl rfl rfl]

theorem test_witness_FdDecodePhase_longText :
    Oversized (withFd { fdIn .decode [] longText with btype := 1, bparam := 1 }) :=
  ⟨rfl, longText, _, .inl ⟨rfl, rfl, rfl⟩,
    .inr ⟨rfl, .inl (by decide), by
      show _ < (mpDecode true longText).length
      rw [longText_length]; decide⟩⟩

theorem test_witness_TerminalPhasesStay :
    (withFd doneFd).fd.phase = .done ∧ (withFd { doneFd with phase := .error }).fd.phase = .error ∧
    (withFd { doneFd with phase := .cancelled }).fd.phase = .cancelled := by decide

/-- A run of a header that waits for the first block. -/
theorem test_witness_FdRunRule :
    ∃ t, RunsTo (withFd { Fd.started with src := h1 }) t .wait 10 :=
  ⟨_, .more rfl (.stop (st := .wait) (k := 0) rfl (by decide))⟩

theorem test_witness_FdRunRule_refused : OkSteps oversized oversized ∧ fdStep oversized = .refused .blockTooLong :=
  ⟨.none, oversized_refused⟩

theorem test_witness_FdRunRule_idle : State.reset.fd.phase = .idle := by decide

/-- A property block, a Gcode block with its right CRC (D-FD6), and an empty block with a wrong one. -/
def plainBlocks : List PlainBlock :=
  [⟨2, [0x61, 0x3D, 0x31, 0x0A], 0⟩, ⟨1, [0x47, 0x32, 0x38, 0x0A], 0x93393C54#32⟩, ⟨4, [], 1⟩]

theorem test_witness_PlainContainerParses :
    (∀ b ∈ plainBlocks, b.btype.toNat ≤ 4 ∧ b.payload.length ≤ 2 ^ 32 - 37) ∧ (container plainBlocks).length < 2 ^ 64 ∧
    (withFd { Fd.started with src := container plainBlocks, eof := true }).fd =
      { Fd.started with src := container plainBlocks, eof := true } := by decide

/-- A decoder in the middle of a copy. -/
def copying : Hsd :=
  { hsd8 16 2 [0x80] with dstate := .copy, index := 256, count := 128, head := 1, left := 8, cur := 0xFF, dict := [(0, 0x61)] }

theorem test_witness_HsdInvariantKept :
    copying.Inv ∧ step ((withHsd copying).willIssue ⟨0x22000000#32, []⟩) =
      .next (next (step ((withHsd copying).willIssue ⟨0x22000000#32, []⟩))) :=
  ⟨by constructor <;> (try unfold ConfigLegal) <;> decide, rfl⟩

/-- An encoder with bits pending and a history. -/
def encoding : Hse := { hse4 true [1, 2] with nbits := 37, obits := 0x1FFFFFFFFF#37, hist := [(15, 7)] }

theorem test_witness_HseInvariantKept :
    encoding.Inv ∧ step ((withHse encoding).willIssue ⟨0x32000000#32, []⟩) =
      .next (next (step ((withHse encoding).willIssue ⟨0x32000000#32, []⟩))) :=
  ⟨by constructor <;> (try unfold ConfigLegal) <;> decide, rfl⟩

/-- An unpacker that holds a character and awaits one. -/
def holding : Mpu := { Mpu.cleared with packing := true, fcq := 1, charBuf := 0x31 }

theorem test_witness_MpuInvariantKept :
    holding.Inv ∧ step ({ State.reset with mpu := holding }.willIssue ⟨0x41000000#32, [0x4D]⟩) =
      .next (next (step ({ State.reset with mpu := holding }.willIssue ⟨0x41000000#32, [0x4D]⟩))) :=
  ⟨by constructor <;> decide, rfl⟩

/-- A dispatcher in the middle of an uncompressed block. -/
def inBlock : Fd := { fdIn .payload [1, 2, 3] [] with btype := 5, busize := 3 }

theorem test_witness_FdInvariantKept :
    inBlock.Inv ∧ doneFd.Inv ∧ step ((withFd inBlock).willIssue ⟨0x53000000#32, []⟩) =
      .next (next (step ((withFd inBlock).willIssue ⟨0x53000000#32, []⟩))) :=
  ⟨by constructor <;> decide, by constructor <;> decide, rfl⟩

end Sys2Proof.Tests
end

/-! PROOFS of the statements about encoding: which commands decode, and what executing the others answers
(spec/30_encoding.md R97). Each operand form of R93 and R94 has one lemma that says which IMM and din it takes and one that
says the same of `Malformed`; the opcode map of R92 then goes form by form. -/

namespace Sys2Proof.Proofs

open Sys2Proof.Machine Sys2Proof.Claims

/-! ## The parts of a command -/

@[simp] theorem opcodeOf_cmd (o : BitVec 8) (imm : BitVec 24) (din : List Byte) :
    opcodeOf (cmd o imm din).word = o := opcodeOf_commandWord o imm

@[simp] theorem immOf_cmd (o : BitVec 8) (imm : BitVec 24) (din : List Byte) :
    immOf (cmd o imm din).word = imm := immOf_commandWord o imm

@[simp] theorem cmd_din (o : BitVec 8) (imm : BitVec 24) (din : List Byte) : (cmd o imm din).din = din := rfl

/-- The upper bits of IMM are 0 exactly when IMM is a number of the lower ones. -/
theorem extractLsb'_upper_eq_zero_iff (imm : BitVec 24) {used unused : Nat} (h : used + unused = 24) :
    imm.extractLsb' used unused = 0#unused ↔ imm.toNat < 2 ^ used := by
  have hfit : imm.toNat / 2 ^ used < 2 ^ unused :=
    Nat.div_lt_of_lt_mul (by rw [← Nat.pow_add, h]; exact imm.isLt)
  rw [← BitVec.toNat_inj, BitVec.extractLsb'_toNat, Nat.shiftRight_eq_div_pow, Nat.mod_eq_of_lt hfit,
    BitVec.toNat_ofNat, Nat.zero_mod, Nat.div_eq_zero_iff_lt (Nat.two_pow_pos used)]

/-- The lower bits of IMM are all of it when the upper ones are 0. -/
theorem toNat_extractLsb'_lower (imm : BitVec 24) {used : Nat} (h : imm.toNat < 2 ^ used) :
    (imm.extractLsb' 0 used).toNat = imm.toNat := by
  rw [BitVec.extractLsb'_toNat, Nat.shiftRight_zero, Nat.mod_eq_of_lt h]

theorem imm_eq_zero_iff (imm : BitVec 24) : imm = 0#24 ↔ imm.toNat = 0 := by
  rw [← BitVec.toNat_inj]; rfl

/-! ## Register numbers (R97(e)) -/

/-- The claims' list of numbers is the model's table of registers (spec/10_state.md R20). -/
theorem registerNumbers_eq_map : registerNumbers = Reg.all.map fun r => r.number.toNat := rfl

theorem exists_ofNumber_iff (n : BitVec 12) : (∃ r, Reg.ofNumber n = some r) ↔ n.toNat ∈ registerNumbers := by
  rw [← Option.isSome_iff_exists, Reg.ofNumber, List.find?_isSome, registerNumbers_eq_map, List.mem_map]
  simp only [beq_iff_eq, BitVec.toNat_inj]

/-! ## What each operand form takes -/

/-- A command of `decode`, or of one of its operand forms, is accepted. -/
def Accepts (r : Except DecodeError Instr) : Prop := ∃ i, r = .ok i

@[simp] theorem accepts_ok (i : Instr) : Accepts (.ok i) := ⟨i, rfl⟩

@[simp] theorem not_accepts_error (e : DecodeError) : ¬ Accepts (.error e) := nofun

/-- A guard of an operand form is one of the conditions it takes its operands under. -/
theorem accepts_guard_iff {p : Prop} [Decidable p] {r : Except DecodeError Instr} {e : DecodeError} :
    Accepts (if p then r else .error e) ↔ p ∧ Accepts r := by
  split <;> simp [*]

section Forms

variable {o : BitVec 8} {imm : BitVec 24} {din : List Byte}

theorem decodeBare_accepts_iff (i : Instr) :
    Accepts (decodeBare (cmd o imm din) i) ↔ imm.toNat = 0 ∧ din.length = 0 := by
  simp [decodeBare, accepts_guard_iff, imm_eq_zero_iff]

theorem decodeAny_accepts_iff (i : List Byte → Instr) (hdin : din.length < 2 ^ 32) :
    Accepts (decodeAny (cmd o imm din) i) ↔ imm.toNat = 0 := by
  have hfits : dinFits din = true := decide_eq_true hdin
  simp [decodeAny, accepts_guard_iff, imm_eq_zero_iff, hfits]

theorem decodeLoad_accepts_iff (i : BitVec 32 → Instr) :
    Accepts (decodeLoad (cmd o imm din) i) ↔ imm.toNat = 0 ∧ din.length = 4 := by
  rw [decodeLoad, accepts_guard_iff, accepts_guard_iff, immOf_cmd, cmd_din, imm_eq_zero_iff]
  simp only [accepts_ok, and_true]

theorem decodeCfg_accepts_iff (i : BitVec 4 → BitVec 4 → BitVec 32 → BitVec 32 → Instr) :
    Accepts (decodeCfg (cmd o imm din) i) ↔ imm.toNat < 2 ^ 8 ∧ din.length = 8 := by
  simp [decodeCfg, accepts_guard_iff, extractLsb'_upper_eq_zero_iff]

theorem decodeByte_accepts_iff (i : Byte → Instr) :
    Accepts (decodeByte (cmd o imm din) i) ↔ imm.toNat < 2 ^ 8 ∧ din.length = 0 := by
  simp [decodeByte, accepts_guard_iff, extractLsb'_upper_eq_zero_iff]

theorem decodeIndex_accepts_iff (i : BitVec 24 → Instr) :
    Accepts (decodeIndex (cmd o imm din) i) ↔ din.length = 0 := by
  simp [decodeIndex, accepts_guard_iff]

theorem decodeReg_accepts_iff (i : Reg → Instr) :
    Accepts (decodeReg (cmd o imm din) i) ↔
      imm.toNat < 2 ^ 12 ∧ din.length = 0 ∧ imm.toNat ∈ registerNumbers := by
  simp only [decodeReg, accepts_guard_iff, immOf_cmd, cmd_din, extractLsb'_upper_eq_zero_iff]
  refine and_congr_right fun himm => and_congr_right fun _ => ?_
  rw [← toNat_extractLsb'_lower imm himm, ← exists_ofNumber_iff]
  cases Reg.ofNumber (imm.extractLsb' 0 12) <;> simp

end Forms

/-! ## What R97 leaves each operand form -/

theorem not_malformed_iff {o imm : Nat} {din : List Byte} :
    ¬ Malformed o imm din ↔
      Assigned o ∧ imm < 2 ^ immUsed o ∧ DinRight o din.length ∧ (o = 0x02 → imm ∈ registerNumbers) := by
  have hlt : Assigned o → o < 0x60 := by unfold Assigned; omega
  simp only [Malformed, not_or, Nat.not_le, not_not, not_and]
  exact ⟨fun ⟨_, h⟩ => h, fun h => ⟨hlt h.1, h⟩⟩

/-- The commands without operands (spec/30_encoding.md R92). -/
def bareOpcodes : List Nat :=
  [0x00, 0x01, 0x10, 0x14, 0x22, 0x23, 0x24, 0x32, 0x33, 0x34, 0x40, 0x50, 0x52, 0x53, 0x54, 0x56]

/-- The commands whose operand is all of din (spec/30_encoding.md R94). -/
def anyOpcodes : List Nat := [0x13, 0x21, 0x31, 0x41, 0x51]

section Forms

variable {o imm : Nat} {din : List Byte}

theorem not_malformed_bare_iff (ho : o ∈ bareOpcodes) :
    ¬ Malformed o imm din ↔ imm = 0 ∧ din.length = 0 := by
  have key : ∀ o ∈ bareOpcodes, Assigned o ∧ immUsed o = 0 ∧ o ≠ 0x02 ∧
      o ≠ 0x11 ∧ ¬ (o = 0x20 ∨ o = 0x30) ∧ o ∉ anyOpcodes := by unfold Assigned; decide
  obtain ⟨hassigned, himm, hreg, hload, hcfg, hany⟩ := key o ho
  have hdin : DinRight o din.length ↔ din.length = 0 := by
    rw [DinRight, ← anyOpcodes]
    simp [hload, hcfg, hany]
  simp [not_malformed_iff, hassigned, himm, hreg, hdin]

theorem not_malformed_any_iff (ho : o ∈ anyOpcodes) : ¬ Malformed o imm din ↔ imm = 0 := by
  have key : ∀ o ∈ anyOpcodes, Assigned o ∧ immUsed o = 0 ∧ o ≠ 0x02 := by unfold Assigned; decide
  obtain ⟨hassigned, himm, hreg⟩ := key o ho
  have hdin : DinRight o din.length := .inr (.inr (.inl ho))
  simp [not_malformed_iff, hassigned, himm, hreg, hdin]

theorem not_malformed_load_iff : ¬ Malformed 0x11 imm din ↔ imm = 0 ∧ din.length = 4 := by
  simp [not_malformed_iff, Assigned, immUsed, DinRight]

theorem not_malformed_byte_iff : ¬ Malformed 0x12 imm din ↔ imm < 2 ^ 8 ∧ din.length = 0 := by
  simp [not_malformed_iff, Assigned, immUsed, DinRight]

theorem not_malformed_cfg_iff (ho : o = 0x20 ∨ o = 0x30) :
    ¬ Malformed o imm din ↔ imm < 2 ^ 8 ∧ din.length = 8 := by
  obtain rfl | rfl := ho <;> simp [not_malformed_iff, Assigned, immUsed, DinRight]

theorem not_malformed_reg_iff :
    ¬ Malformed 0x02 imm din ↔ imm < 2 ^ 12 ∧ din.length = 0 ∧ imm ∈ registerNumbers := by
  simp [not_malformed_iff, Assigned, immUsed, DinRight]

theorem not_malformed_index_iff : ¬ Malformed 0x55 imm din ↔ imm < 2 ^ 24 ∧ din.length = 0 := by
  simp [not_malformed_iff, Assigned, immUsed, DinRight]

end Forms

/-! ## The opcode map (R92) -/

/-- The commands that decode are exactly those that no clause of R97 names. -/
theorem decode_accepts_iff (o : BitVec 8) (imm : BitVec 24) (din : List Byte) (hdin : din.length < 2 ^ 32) :
    Accepts (decode (cmd o imm din)) ↔ ¬ Malformed o.toNat imm.toNat din := by
  unfold decode
  rw [opcodeOf_cmd]
  generalize o.toNat = n
  split
  case h_3 => rw [decodeReg_accepts_iff, not_malformed_reg_iff]
  case h_5 => rw [decodeLoad_accepts_iff, not_malformed_load_iff]
  case h_6 => rw [decodeByte_accepts_iff, not_malformed_byte_iff]
  case h_9 | h_14 => rw [decodeCfg_accepts_iff, not_malformed_cfg_iff (by decide)]
  case h_7 | h_10 | h_15 | h_20 | h_22 =>
    rw [decodeAny_accepts_iff _ hdin, not_malformed_any_iff (by decide)]
  case h_26 => rw [decodeIndex_accepts_iff, not_malformed_index_iff, and_iff_right imm.isLt]
  case h_28 =>
    have hreserved : ¬ Assigned n := by
      simp only [imp_false] at *
      unfold Assigned
      omega
    have hbad : Malformed n imm.toNat din := .inr (.inl hreserved)
    simp only [hbad, not_true_eq_false, iff_false]
    split <;> exact not_accepts_error _
  -- The rest of the map is `bareOpcodes`.
  all_goals rw [decodeBare_accepts_iff, not_malformed_bare_iff (by decide)]

/-! ## Executing a command (spec/40_sys.md R131) -/

theorem execute_of_decode_ok {c : Command} {i : Instr} (h : decode c = .ok i) (s : State) :
    execute c s = exec i s := by rw [execute, h]

theorem execute_of_not_accepts {c : Command} (h : ¬ Accepts (decode c)) (s : State) :
    execute c s = illegal s := by
  cases hdec : decode c with
  | ok i => exact absurd ⟨i, hdec⟩ h
  | error e => rw [execute, hdec]; rfl

/-- Settles O3: what decodes is what is not malformed, and the rest is answered ILLEGAL before `exec` is reached. -/
theorem malformedCommandsAnswerIllegal : Obligations.MalformedCommandsAnswerIllegal := by
  refine ⟨rfl, fun o imm din hdin => ⟨fun hbad => ?_, fun hgood => ?_⟩⟩
  · exact execute_of_not_accepts fun haccepts => (decode_accepts_iff o imm din hdin).mp haccepts hbad
  · obtain ⟨i, hi⟩ := (decode_accepts_iff o imm din hdin).mpr hgood
    exact ⟨i, hi, execute_of_decode_ok hi⟩

end Sys2Proof.Proofs

/-! PROOFS of the statements about SYS: NOP and RESET_ALL (spec/40_sys.md R132, R134). A command without operands is encoded
as R92 says as soon as the opcode map gives it the form `decodeBare`; what RDREG reads depends on the units alone, so after
RESET_ALL every register reads what it reads in the reset state. -/

namespace Sys2Proof.Proofs

open Sys2Proof.Machine Sys2Proof.Claims

/-! ## Commands without operands (spec/30_encoding.md R92, R97) -/

theorem decodeBare_cmd_of_no_operands (o : BitVec 8) (i : Instr) : decodeBare (cmd o 0#24 []) i = .ok i := by
  rw [decodeBare, immOf_cmd, if_pos rfl, cmd_din, if_pos List.length_nil]

theorem encodedBare_of_decode {o : BitVec 8} {i : Instr}
    (hform : ∀ imm din, decode (cmd o imm din) = decodeBare (cmd o imm din) i) : EncodedBare o i := by
  intro imm din s
  split
  next hnone =>
    obtain ⟨rfl, rfl⟩ := hnone
    exact execute_of_decode_ok ((hform _ _).trans (decodeBare_cmd_of_no_operands o i)) s
  next hsome =>
    refine execute_of_not_accepts ?_ s
    rwa [hform, decodeBare_accepts_iff, ← imm_eq_zero_iff, List.length_eq_zero_iff]

/-! ## Responses (spec/30_encoding.md R90) -/

/-- The response the model gives is the answer of the claims. -/
theorem next_reply_eq_answer (t : State) (st : Status) (n : Nat) (d : List Byte) :
    .next (t.reply st (BitVec.ofNat 32 n) d) = answer t st n d := rfl

/-! ## NOP (R132) -/

theorem exec_nop (s : State) : exec .nop s = answer s .ok 0 [] := next_reply_eq_answer s .ok 0 []

theorem encodedBare_nop : EncodedBare 0x00#8 .nop :=
  encodedBare_of_decode fun imm din => by rw [decode, opcodeOf_cmd]; rfl

/-- Settles O6: the equation of NOP, and its encoding as a command without operands. -/
theorem nopRule : Obligations.NopRule := ⟨exec_nop, encodedBare_nop⟩

/-! ## RESET_ALL (R134) -/

theorem exec_resetAll (s : State) : exec .resetAll s = answer s.resetUnits .ok 0 [] :=
  next_reply_eq_answer s.resetUnits .ok 0 []

theorem encodedBare_resetAll : EncodedBare 0x01#8 .resetAll :=
  encodedBare_of_decode fun imm din => by rw [decode, opcodeOf_cmd]; rfl

/-- A register is a register of a unit: states with the same units give it the same value (spec/10_state.md R20). -/
theorem regValue_eq_of_units_eq {s t : State} (hcrc : s.crcAcc = t.crcAcc) (hhsd : s.hsd = t.hsd)
    (hhse : s.hse = t.hse) (hmpu : s.mpu = t.mpu) (hfd : s.fd = t.fd) (r : Reg) : regValue r s = regValue r t := by
  cases r <;> simp only [regValue, hcrc, hhsd, hhse, hmpu, hfd]

/-- The reset values of the table of spec/10_state.md R20, register by register. -/
theorem regValue_reset (r : Reg) : regValue r State.reset = if r = .sysId then 0x31434453#64 else 0#64 := by
  cases r <;> rfl

theorem regValue_resetUnits (r : Reg) (s : State) : regValue r s.resetUnits = regValue r State.reset :=
  regValue_eq_of_units_eq rfl rfl rfl rfl rfl r

theorem resetUnits_queues_and_sequences_empty (s : State) :
    s.resetUnits.hsd.inq = [] ∧ s.resetUnits.hse.q = [] ∧ s.resetUnits.fd.src = [] ∧ s.resetUnits.fd.pay = [] ∧
      s.resetUnits.fd.dec = [] ∧ s.resetUnits.fd.route = [] ∧ s.resetUnits.fd.results = [] := by
  simp [Hsd.cleared, Hse.cleared, Fd.cleared]

theorem resetUnits_codecs_unconfigured (s : State) :
    s.resetUnits.hsd.cfgd = false ∧ s.resetUnits.hse.cfgd = false ∧ s.resetUnits.hsd.dict = [] ∧
      s.resetUnits.hse.hist = [] := by
  simp [Hsd.cleared, Hse.cleared]

/-- Settles O7: the state RESET_ALL leaves is `resetUnits`, whose units are those of the reset state. -/
theorem resetAllRule : Obligations.ResetAllRule :=
  ⟨encodedBare_resetAll, fun s => ⟨s.resetUnits, exec_resetAll s,
    fun r => (regValue_resetUnits r s).trans (regValue_reset r),
    resetUnits_queues_and_sequences_empty s, resetUnits_codecs_unconfigured s⟩⟩

end Sys2Proof.Proofs

/-! PROOFS of the statements about CRC (spec/41_crc.md R152, R154 to R157): the bytes of a word in both directions, the
encoding of the commands that take an operand, and the chaining of `crcUpdate`. -/

namespace Sys2Proof.Proofs

open Sys2Proof.Machine Sys2Proof.Claims

/-! ## Little-endian bytes (spec/00_scope.md R9, spec/20_memory.md R74) -/

theorem leBytes_eq_map_range (n v : Nat) :
    leBytes n v = (List.range n).map fun k => BitVec.ofNat 8 (v >>> (8 * k)) := by
  induction n generalizing v with
  | zero => rfl
  | succ n ih =>
    have hshift (k : Nat) : (v / 256) >>> (8 * k) = v >>> (8 * (k + 1)) := by
      rw [Nat.mul_succ, Nat.add_comm, Nat.shiftRight_add, Nat.shiftRight_eq_div_pow v 8]
    rw [leBytes, ih, List.range_succ_eq_map, List.map_cons, List.map_map]
    simp only [hshift, Function.comp_def, Nat.mul_zero, Nat.shiftRight_zero, Nat.succ_eq_add_one]

/-- Byte `k` of a word is its bits `8*k+7 : 8*k`. -/
theorem leBytes_toNat_eq_map_extractLsb' {w : Nat} (n : Nat) (v : BitVec w) :
    leBytes n v.toNat = (List.range n).map fun k => v.extractLsb' (8 * k) 8 :=
  leBytes_eq_map_range n v.toNat

/-- The number of a window of bytes, its first byte apart; past the end of the sequence a byte counts as 0. -/
theorem leNat_window_succ (d : List Byte) (i n : Nat) :
    leNat ((d.drop i).take (n + 1)) = (d.getD i 0).toNat + 256 * leNat ((d.drop (i + 1)).take n) := by
  obtain hin | hout := Nat.lt_or_ge i d.length
  · rw [List.drop_eq_getElem_cons hin, List.take_succ_cons, leNat, List.getD_eq_getElem _ _ hin]
  · rw [List.drop_of_length_le hout, List.drop_of_length_le (by omega), List.getD_eq_default _ _ hout]
    simp [leNat]

theorem toNat_append_byte {w : Nat} (x : BitVec w) (b : Byte) : (x ++ b).toNat = b.toNat + 256 * x.toNat := by
  rw [BitVec.toNat_append, ← Nat.shiftLeft_add_eq_or_of_lt b.isLt, Nat.shiftLeft_eq]
  omega

theorem le32_eq_append (d : List Byte) (i : Nat) :
    le32 d i = d.getD (i + 3) 0 ++ d.getD (i + 2) 0 ++ d.getD (i + 1) 0 ++ d.getD i 0 := by
  apply BitVec.eq_of_toNat_eq
  rw [toNat_append_byte, toNat_append_byte, toNat_append_byte, le32, BitVec.toNat_ofNat]
  simp only [leNat_window_succ, List.take_zero, leNat, Nat.add_assoc, Nat.reduceAdd]
  omega

/-! ## Commands with an operand (spec/30_encoding.md R92 to R94, R97) -/

/-- A command accepted exactly under `p`, and then as `i`, executes `i` under `p` and is ILLEGAL otherwise. -/
theorem execute_eq_ite {c : Command} {p : Prop} [Decidable p] {i : Instr} (haccepts : Accepts (decode c) ↔ p)
    (hdecode : p → decode c = .ok i) (s : State) : execute c s = if p then exec i s else illegal s := by
  split
  next hp => exact execute_of_decode_ok (hdecode hp) s
  next hp => exact execute_of_not_accepts (mt haccepts.mp hp) s

theorem decodeAny_cmd_of_imm_zero {o : BitVec 8} {din : List Byte} (i : List Byte → Instr)
    (hdin : din.length < 2 ^ 32) : decodeAny (cmd o 0#24 din) i = .ok (i din) := by
  have hfits : dinFits din = true := decide_eq_true hdin
  rw [decodeAny, immOf_cmd, if_pos rfl, cmd_din, if_pos hfits]

theorem encodedAny_of_decode {o : BitVec 8} {i : List Byte → Instr}
    (hform : ∀ imm din, decode (cmd o imm din) = decodeAny (cmd o imm din) i) : EncodedAny o i := by
  intro imm din s hdin
  refine execute_eq_ite ?_ ?_ s
  · rw [hform, decodeAny_accepts_iff i hdin, imm_eq_zero_iff]
  · rintro rfl
    rw [hform, decodeAny_cmd_of_imm_zero i hdin]

theorem decodeLoad_cmd_of_four_bytes {o : BitVec 8} {din : List Byte} (i : BitVec 32 → Instr)
    (hdin : din.length = 4) : decodeLoad (cmd o 0#24 din) i = .ok (i (le32 din 0)) := by
  rw [decodeLoad, immOf_cmd, if_pos rfl, cmd_din, if_pos hdin]

/-- The low 8 bits of IMM are its number when that is a byte. -/
theorem decodeByte_cmd_of_imm_lt {o : BitVec 8} {imm : BitVec 24} (i : Byte → Instr) (himm : imm.toNat < 2 ^ 8) :
    decodeByte (cmd o imm []) i = .ok (i (BitVec.ofNat 8 imm.toNat)) := by
  rw [decodeByte, immOf_cmd, if_pos ((extractLsb'_upper_eq_zero_iff imm rfl).mpr himm), cmd_din,
    if_pos List.length_nil]
  rfl

/-! ## CRC_CLEAR (R152) -/

theorem exec_crcClear (s : State) : exec .crcClear s = answer { s with crcAcc := 0#32 } .ok 0 [] :=
  next_reply_eq_answer { s with crcAcc := 0#32 } .ok 0 []

theorem encodedBare_crcClear : EncodedBare 0x10#8 .crcClear :=
  encodedBare_of_decode fun imm din => by rw [decode, opcodeOf_cmd]; rfl

/-- Settles O16: the equation of CRC_CLEAR, and its encoding as a command without operands. -/
theorem crcClearRule : Obligations.CrcClearRule := ⟨exec_crcClear, encodedBare_crcClear⟩

/-! ## CRC_LOAD (R154) -/

theorem exec_crcLoad (v : BitVec 32) (s : State) : exec (.crcLoad v) s = answer { s with crcAcc := v } .ok 0 [] :=
  next_reply_eq_answer { s with crcAcc := v } .ok 0 []

theorem decode_cmd_crcLoad (imm : BitVec 24) (din : List Byte) :
    decode (cmd 0x11#8 imm din) = decodeLoad (cmd 0x11#8 imm din) .crcLoad := by
  rw [decode, opcodeOf_cmd]; rfl

theorem execute_crcLoad (imm : BitVec 24) (din : List Byte) (s : State) :
    execute (cmd 0x11#8 imm din) s =
      if imm = 0#24 ∧ din.length = 4 then exec (.crcLoad (le32 din 0)) s else illegal s := by
  refine execute_eq_ite ?_ ?_ s
  · rw [decode_cmd_crcLoad, decodeLoad_accepts_iff, imm_eq_zero_iff]
  · rintro ⟨rfl, hdin⟩
    rw [decode_cmd_crcLoad, decodeLoad_cmd_of_four_bytes _ hdin]

/-- Settles O17: `le32` byte by byte, the equation of CRC_LOAD, and its encoding. -/
theorem crcLoadRule : Obligations.CrcLoadRule := ⟨le32_eq_append, exec_crcLoad, execute_crcLoad⟩

/-! ## CRC_SPAN (R156) -/

theorem exec_crcSpan (din : List Byte) (s : State) :
    exec (.crcSpan din) s = answer { s with crcAcc := crcUpdate s.crcAcc din } .ok din.length [] :=
  next_reply_eq_answer { s with crcAcc := crcUpdate s.crcAcc din } .ok din.length []

theorem encodedAny_crcSpan : EncodedAny 0x13#8 .crcSpan :=
  encodedAny_of_decode fun imm din => by rw [decode, opcodeOf_cmd]; rfl

/-- The inversion that ends one update and the one that begins the next cancel (R151). -/
theorem crcUpdate_inversion_cancel (c : BitVec 32) : c ^^^ 0xFFFFFFFF#32 ^^^ 0xFFFFFFFF#32 = c := by
  rw [BitVec.xor_assoc, BitVec.xor_self, BitVec.xor_zero]

@[simp] theorem crcUpdate_nil (acc : BitVec 32) : crcUpdate acc [] = acc := crcUpdate_inversion_cancel acc

theorem crcUpdate_append (acc : BitVec 32) (a b : List Byte) :
    crcUpdate (crcUpdate acc a) b = crcUpdate acc (a ++ b) := by
  rw [crcUpdate, crcUpdate, crcUpdate_inversion_cancel, crcUpdate, List.foldl_append]

/-- Settles O19: the equation of CRC_SPAN, its encoding, and that updates chain. -/
theorem crcSpanRule : Obligations.CrcSpanRule := ⟨exec_crcSpan, encodedAny_crcSpan, crcUpdate_nil, crcUpdate_append⟩

/-! ## CRC_BYTE (R155) -/

theorem exec_crcByte (b : Byte) (s : State) :
    exec (.crcByte b) s = answer { s with crcAcc := crcUpdate s.crcAcc [b] } .ok 1 [] :=
  next_reply_eq_answer { s with crcAcc := crcUpdate s.crcAcc [b] } .ok 1 []

theorem exec_crcByte_eq_crcSpan (b : Byte) (s : State) : exec (.crcByte b) s = exec (.crcSpan [b]) s := by
  rw [exec_crcByte, exec_crcSpan, List.length_singleton]

theorem decode_cmd_crcByte (imm : BitVec 24) (din : List Byte) :
    decode (cmd 0x12#8 imm din) = decodeByte (cmd 0x12#8 imm din) .crcByte := by
  rw [decode, opcodeOf_cmd]; rfl

theorem execute_crcByte (imm : BitVec 24) (din : List Byte) (s : State) :
    execute (cmd 0x12#8 imm din) s =
      if imm.toNat < 256 ∧ din = [] then exec (.crcByte (BitVec.ofNat 8 imm.toNat)) s else illegal s := by
  refine execute_eq_ite ?_ ?_ s
  · rw [decode_cmd_crcByte, ← List.length_eq_zero_iff]
    exact decodeByte_accepts_iff _
  · rintro ⟨himm, rfl⟩
    rw [decode_cmd_crcByte, decodeByte_cmd_of_imm_lt _ himm]

/-- Settles O18: the equation of CRC_BYTE, that of CRC_SPAN at the one byte, and its encoding. -/
theorem crcByteRule : Obligations.CrcByteRule := ⟨exec_crcByte, exec_crcByte_eq_crcSpan, execute_crcByte⟩

/-! ## CRC_READ (R157) -/

theorem exec_crcRead (s : State) :
    exec .crcRead s = answer s .ok 4 ((List.range 4).map fun k => s.crcAcc.extractLsb' (8 * k) 8) := by
  rw [← leBytes_toNat_eq_map_extractLsb' 4 s.crcAcc]
  exact next_reply_eq_answer s .ok 4 (leBytes 4 s.crcAcc.toNat)

theorem encodedBare_crcRead : EncodedBare 0x14#8 .crcRead :=
  encodedBare_of_decode fun imm din => by rw [decode, opcodeOf_cmd]; rfl

/-- Settles O20: the equation of CRC_READ with the bytes of CRC_ACC, and its encoding. -/
theorem crcReadRule : Obligations.CrcReadRule := ⟨exec_crcRead, encodedBare_crcRead⟩

end Sys2Proof.Proofs

/-! PROOFS of the statements about the HSD commands (spec/42_heatshrink_decoder.md R171 to R182): one equation per
command, the step of each token state, and HSD_POLL's loop, which always has iterations enough. -/

namespace Sys2Proof.Proofs

open Sys2Proof.Machine Sys2Proof.Claims

/-! ## Codec configurations (spec/30_encoding.md R93, R94, R97) -/

/-- `W = IMM[3:0]`, `L = IMM[7:4]`: the two nibbles of a one-byte IMM. -/
theorem decodeCfg_cmd_of_eight_bytes {o : BitVec 8} {imm : BitVec 24} {din : List Byte}
    (i : BitVec 4 → BitVec 4 → BitVec 32 → BitVec 32 → Instr) (himm : imm.toNat < 2 ^ 8) (hdin : din.length = 8) :
    decodeCfg (cmd o imm din) i =
      .ok (i (BitVec.ofNat 4 imm.toNat) (BitVec.ofNat 4 (imm.toNat / 16)) (le32 din 0) (le32 din 4)) := by
  have hw : imm.extractLsb' 0 4 = BitVec.ofNat 4 imm.toNat := rfl
  have hl : imm.extractLsb' 4 4 = BitVec.ofNat 4 (imm.toNat / 16) :=
    congrArg (BitVec.ofNat 4) (Nat.shiftRight_eq_div_pow imm.toNat 4)
  rw [decodeCfg, immOf_cmd, if_pos ((extractLsb'_upper_eq_zero_iff imm rfl).mpr himm), cmd_din, if_pos hdin, hw, hl]

theorem encodedCfg_of_decode {o : BitVec 8} {i : BitVec 4 → BitVec 4 → BitVec 32 → BitVec 32 → Instr}
    (hform : ∀ imm din, decode (cmd o imm din) = decodeCfg (cmd o imm din) i) : EncodedCfg o i := by
  intro imm din s
  refine execute_eq_ite ?_ ?_ s
  · rw [hform]
    exact decodeCfg_accepts_iff i
  · rintro ⟨himm, hdin⟩
    rw [hform, decodeCfg_cmd_of_eight_bytes i himm hdin]

/-- A legal configuration (R173, R213), in the claims' words. -/
theorem cfgLegal_eq_true_iff (w l : BitVec 4) (i o : BitVec 32) :
    cfgLegal w l i o = true ↔ ConfigLegal w l i o := decide_eq_true_iff

/-! ## HSD_CFG (R173) -/

theorem exec_hsdCfg_of_legal {w l : BitVec 4} {i o : BitVec 32} (h : ConfigLegal w l i o) (s : State) :
    exec (.hsdCfg w l i o) s =
      answer { s with hsd := { Hsd.cleared with cfgd := true, w := w, l := l, inCap := i, outCap := o } } .ok 0 [] :=
  if_pos ((cfgLegal_eq_true_iff w l i o).mpr h)

theorem exec_hsdCfg_of_illegal {w l : BitVec 4} {i o : BitVec 32} (h : ¬ ConfigLegal w l i o) (s : State) :
    exec (.hsdCfg w l i o) s = answer { s with hsd := Hsd.cleared } .range 0 [] :=
  if_neg (mt (cfgLegal_eq_true_iff w l i o).mp h)

/-- Settles O23: a legal configuration is one that R173 accepts, and each outcome's equation. -/
theorem hsdCfgRule : Obligations.HsdCfgRule := by
  refine ⟨encodedCfg_of_decode fun imm din => by rw [decode, opcodeOf_cmd]; rfl, fun w l i o s => ?_⟩
  split
  next h => exact exec_hsdCfg_of_legal (by unfold ConfigLegal; omega) s
  next h => exact exec_hsdCfg_of_illegal (by have := w.isLt; unfold ConfigLegal; omega) s

/-! ## HSD_SINK (R174) -/

/-- `raise MISUSE()` in HSD (R171) is the claims' answer. -/
theorem exec_hsdSink_of_misuse {s : State} (h : s.hsd.cfgd = false ∨ s.hsd.finishing = true) (din : List Byte) :
    exec (.hsdSink din) s = answer { s with hsd := { s.hsd with misuse := true } } .misuse 0 [] := if_pos h

theorem sinkTaken_length (inCap : BitVec 32) (queue din : List Byte) :
    (sinkTaken inCap queue din).length = min (inCap.toNat - queue.length) din.length := List.length_take

theorem sinkTaken_eq_take_min (inCap : BitVec 32) (queue din : List Byte) :
    sinkTaken inCap queue din = din.take (min (inCap.toNat - queue.length) din.length) := by
  rw [sinkTaken, sinkRoom, List.take_eq_take_min]

theorem exec_hsdSink_of_room {s : State} (h : ¬ (s.hsd.cfgd = false ∨ s.hsd.finishing = true))
    (hroom : s.hsd.inCap.toNat - s.hsd.inq.length ≠ 0) (din : List Byte) :
    exec (.hsdSink din) s =
      answer { s with hsd := { s.hsd with inq := s.hsd.inq ++ sinkTaken s.hsd.inCap s.hsd.inq din } }
        .ok (sinkTaken s.hsd.inCap s.hsd.inq din).length [] :=
  (if_neg h).trans (if_neg hroom)

theorem exec_hsdSink_of_full {s : State} (h : ¬ (s.hsd.cfgd = false ∨ s.hsd.finishing = true))
    (hroom : s.hsd.inCap.toNat - s.hsd.inq.length = 0) (din : List Byte) :
    exec (.hsdSink din) s = answer s .full 0 [] :=
  (if_neg h).trans (if_pos hroom)

/-- Settles O24: the three outcomes of HSD_SINK in the order of R174. -/
theorem hsdSinkRule : Obligations.HsdSinkRule := by
  refine ⟨encodedAny_of_decode fun imm din => by rw [decode, opcodeOf_cmd]; rfl, fun din s => ?_⟩
  split
  next hmisuse => exact exec_hsdSink_of_misuse hmisuse din
  next hready =>
    split
    next hfull => exact exec_hsdSink_of_full hready hfull din
    next hroom =>
      rw [exec_hsdSink_of_room hready hroom, sinkTaken_length, sinkTaken_eq_take_min]

/-! ## HSD_FINISH (R178) and HSD_RESET (R179) -/

theorem exec_hsdFinish_of_unconfigured {s : State} (h : s.hsd.cfgd = false) :
    exec .hsdFinish s = answer { s with hsd := { s.hsd with misuse := true } } .misuse 0 [] := if_pos h

theorem exec_hsdFinish_of_configured {s : State} (h : s.hsd.cfgd = true) :
    exec .hsdFinish s =
      answer { s with hsd := { s.hsd with finishing := true } }
        (if { s.hsd with finishing := true }.done then .done else .more) 0 [] :=
  if_neg (by simp [h])

/-- `hsd_done()` (R181). -/
theorem hsd_done_iff (u : Hsd) :
    u.done = true ↔ u.finishing = true ∧ u.inq = [] ∧ u.dstate ≠ .copy ∧ u.avail < u.need := by
  simp [Hsd.done, and_assoc]

/-- Settles O28: once FINISHING is set, `hsd_done` says what is left. -/
theorem hsdFinishRule : Obligations.HsdFinishRule := by
  refine ⟨encodedBare_of_decode fun imm din => by rw [decode, opcodeOf_cmd]; rfl, fun s => ?_⟩
  split
  next h => exact exec_hsdFinish_of_unconfigured h
  next h =>
    rw [exec_hsdFinish_of_configured (Bool.eq_true_of_not_eq_false h)]
    simp only [hsd_done_iff, true_and]
    rfl

theorem exec_hsdReset_of_unconfigured {s : State} (h : s.hsd.cfgd = false) :
    exec .hsdReset s = answer { s with hsd := { s.hsd with misuse := true } } .misuse 0 [] := if_pos h

/-- Settles O29: the two outcomes of HSD_RESET; `stream_reset()` is the unit that R179 spells out. -/
theorem hsdResetRule : Obligations.HsdResetRule := by
  refine ⟨encodedBare_of_decode fun imm din => by rw [decode, opcodeOf_cmd]; rfl, fun s => ?_⟩
  split
  next h => exact exec_hsdReset_of_unconfigured h
  next h => exact if_neg h

/-! ## Unconfigured codecs (R171, R211) -/

theorem exec_hsdPoll_of_unconfigured {s : State} (h : s.hsd.cfgd = false) :
    exec .hsdPoll s = answer { s with hsd := { s.hsd with misuse := true } } .misuse 0 [] := if_pos h

theorem exec_hseSink_of_misuse {s : State} (h : s.hse.cfgd = false ∨ s.hse.finishing = true) (din : List Byte) :
    exec (.hseSink din) s = answer { s with hse := { s.hse with misuse := true } } .misuse 0 [] := if_pos h

theorem exec_hsePoll_of_unconfigured {s : State} (h : s.hse.cfgd = false) :
    exec .hsePoll s = answer { s with hse := { s.hse with misuse := true } } .misuse 0 [] := if_pos h

theorem exec_hseFinish_of_unconfigured {s : State} (h : s.hse.cfgd = false) :
    exec .hseFinish s = answer { s with hse := { s.hse with misuse := true } } .misuse 0 [] := if_pos h

theorem exec_hseReset_of_unconfigured {s : State} (h : s.hse.cfgd = false) :
    exec .hseReset s = answer { s with hse := { s.hse with misuse := true } } .misuse 0 [] := if_pos h

theorem exec_hseCfg_of_legal {w l : BitVec 4} {i o : BitVec 32} (h : ConfigLegal w l i o) (s : State) :
    exec (.hseCfg w l i o) s =
      answer { s with hse := { Hse.cleared with cfgd := true, w := w, l := l, inCap := i, outCap := o } } .ok 0 [] :=
  if_pos ((cfgLegal_eq_true_iff w l i o).mpr h)

theorem exec_hseCfg_of_illegal {w l : BitVec 4} {i o : BitVec 32} (h : ¬ ConfigLegal w l i o) (s : State) :
    exec (.hseCfg w l i o) s = answer { s with hse := Hse.cleared } .range 0 [] :=
  if_neg (mt (cfgLegal_eq_true_iff w l i o).mp h)

/-- Settles O40: the MISUSE equation of each command, and the two outcomes of CFG. -/
theorem unconfiguredCodecIsMisuse : Obligations.UnconfiguredCodecIsMisuse := by
  refine ⟨?_, ?_, fun w l i o s => ?_⟩
  · rintro s h i (⟨din, rfl⟩ | rfl | rfl | rfl)
    · exact exec_hsdSink_of_misuse (.inl h) din
    · exact exec_hsdPoll_of_unconfigured h
    · exact exec_hsdFinish_of_unconfigured h
    · exact exec_hsdReset_of_unconfigured h
  · rintro s h i (⟨din, rfl⟩ | rfl | rfl | rfl)
    · exact exec_hseSink_of_misuse (.inl h) din
    · exact exec_hsePoll_of_unconfigured h
    · exact exec_hseFinish_of_unconfigured h
    · exact exec_hseReset_of_unconfigured h
  · by_cases h : ConfigLegal w l i o
    · exact ⟨⟨_, _, exec_hsdCfg_of_legal h s, .inl rfl⟩, ⟨_, _, exec_hseCfg_of_legal h s, .inl rfl⟩⟩
    · exact ⟨⟨_, _, exec_hsdCfg_of_illegal h s, .inr rfl⟩, ⟨_, _, exec_hseCfg_of_illegal h s, .inr rfl⟩⟩

/-! ## The bits each state needs (R172) and the step of each state (R176) -/

theorem hsd_avail_eq (u : Hsd) : u.avail = u.left.toNat + 8 * u.inq.length := rfl

theorem hsd_need_eq_needed (u : Hsd) : u.need = needed u.dstate u.w.toNat u.l.toNat := by
  cases h : u.dstate <;> simp only [Hsd.need, needed, h]

section Step

variable {u : Hsd}

theorem hsd_step_of_tag (h : u.dstate = .tag) :
    u.step = if u.takeValue 1 = 1 then { u.taken 1 with dstate := .lit }
      else { u.taken 1 with index := 0, dstate := if 8 < u.w.toNat then .idxHi else .idxLo } := by
  rw [Hsd.step, h]; rfl

theorem hsd_step_of_lit (h : u.dstate = .lit) : u.step = { (u.taken 8).put u.litByte with dstate := .tag } := by
  rw [Hsd.step, h]

/-- The high bits of a field, read as a number, stand 8 bits up: `<<< 8` is `* 256`. -/
theorem ofNat_shiftLeft_eight (n v : Nat) : BitVec.ofNat n v <<< 8 = BitVec.ofNat n (v * 256) := by
  rw [← BitVec.toNat_inj, BitVec.toNat_shiftLeft, BitVec.toNat_ofNat, BitVec.toNat_ofNat, Nat.shiftLeft_eq,
    Nat.mod_mul_mod]

theorem hsd_step_of_idxHi (h : u.dstate = .idxHi) :
    u.step = { u.taken (u.w.toNat - 8) with
      index := BitVec.ofNat 16 (u.takeValue (u.w.toNat - 8) * 256), dstate := .idxLo } := by
  rw [Hsd.step, h, ← ofNat_shiftLeft_eight]

theorem hsd_step_of_idxLo (h : u.dstate = .idxLo) :
    u.step = { u.taken (min u.w.toNat 8) with
      index := (u.index ||| BitVec.ofNat 16 (u.takeValue (min u.w.toNat 8))) + 1, count := 0,
      dstate := if 8 < u.l.toNat then .cntHi else .cntLo } := by
  rw [Hsd.step, h]; rfl

theorem hsd_step_of_cntHi (h : u.dstate = .cntHi) :
    u.step = { u.taken (u.l.toNat - 8) with
      count := BitVec.ofNat 16 (u.takeValue (u.l.toNat - 8) * 256), dstate := .cntLo } := by
  rw [Hsd.step, h, ← ofNat_shiftLeft_eight]

theorem hsd_step_of_cntLo (h : u.dstate = .cntLo) :
    u.step = { u.taken (min u.l.toNat 8) with
      count := (u.count ||| BitVec.ofNat 16 (u.takeValue (min u.l.toNat 8))) + 1, dstate := .copy } := by
  rw [Hsd.step, h]; rfl

theorem hsd_step_of_copy (h : u.dstate = .copy) : u.step = u := by rw [Hsd.step, h]

/-- What a step changes: it takes the bits its state needs and sets DSTATE, INDEX and COUNT; a literal stores its
byte. -/
theorem hsd_step_form (u : Hsd) :
    (u.dstate = .lit ∧ u.step = { (u.taken u.need).put u.litByte with dstate := .tag }) ∨
      (u.dstate ≠ .lit ∧ ∃ d index count,
        u.step = { u.taken u.need with dstate := d, index := index, count := count }) := by
  rw [Hsd.need]
  cases hd : u.dstate with
  | tag =>
    rw [hsd_step_of_tag hd]
    split <;> exact .inr ⟨nofun, _, _, _, rfl⟩
  | lit => exact .inl ⟨rfl, hsd_step_of_lit hd⟩
  | idxHi => exact .inr ⟨nofun, _, _, _, hsd_step_of_idxHi hd⟩
  | idxLo => exact .inr ⟨nofun, _, _, _, hsd_step_of_idxLo hd⟩
  | cntHi => exact .inr ⟨nofun, _, _, _, hsd_step_of_cntHi hd⟩
  | cntLo => exact .inr ⟨nofun, _, _, _, hsd_step_of_cntLo hd⟩
  | copy =>
    rw [hsd_step_of_copy hd]
    exact .inr ⟨nofun, u.dstate, u.index, u.count, rfl⟩

end Step

theorem hsd_litByte_toNat (u : Hsd) : u.litByte.toNat = u.takeValue 8 := by
  rw [Hsd.litByte, BitVec.toNat_ofNat, Nat.mod_eq_of_lt (u.takeValue_lt 8)]

/-- The offset a copy step reads is `(HEAD - INDEX) mod 2^W` of the numbers; the model subtracts 16-bit words. -/
theorem copyOffset_eq_int_emod (head index : BitVec 16) (w : BitVec 4) :
    (((head - index).toNat % 2 ^ w.toNat : Nat) : Int) = ((head.toNat : Int) - index.toNat) % 2 ^ w.toNat := by
  have hdvd : (2 : Int) ^ w.toNat ∣ 2 ^ 16 := pow_dvd_pow 2 (by omega)
  have hsub : ((head - index).toNat : Int) = ((head.toNat : Int) - index.toNat) % 2 ^ 16 := by
    rw [BitVec.toNat_sub]
    have := index.isLt
    omega
  rw [Int.natCast_emod, Nat.cast_pow, hsub, Nat.cast_ofNat, Int.emod_emod_of_dvd _ hdvd]

theorem hsd_copyByte_eq (u : Hsd) :
    u.copyByte = memRead u.dict (((u.head.toNat : Int) - u.index.toNat) % 2 ^ u.w.toNat).toNat := by
  rw [← copyOffset_eq_int_emod, Int.toNat_natCast, Hsd.copyByte, Hsd.size]

theorem hsd_stepRule (u : Hsd) : StepRule u :=
  ⟨hsd_step_of_tag, fun h => ⟨hsd_litByte_toNat u, hsd_step_of_lit h⟩, hsd_step_of_idxHi, hsd_step_of_idxLo,
    hsd_step_of_cntHi, hsd_step_of_cntLo, hsd_copyByte_eq u, rfl⟩

/-! ## The end of HSD_POLL's loop (R180, spec/70_reset_and_hazards.md R387) -/

/-- A step takes the bits that its state needs. -/
theorem hsd_step_avail {u : Hsd} (h : u.need ≤ u.avail) : u.step.avail + u.need = u.avail := by
  obtain ⟨-, hstep⟩ | ⟨-, d, index, count, hstep⟩ := hsd_step_form u <;>
    rw [hstep] <;> exact Hsd.taken_avail h

/-- How many steps a state is at most from the end of its token: what a step that takes no bit counts down. -/
def stepsLeft : DState → Nat
  | .idxHi => 4
  | .idxLo => 3
  | .cntHi => 2
  | .cntLo => 1
  | .tag | .lit | .copy => 0

/-- A step moves on within its token, or it is the step that takes the tag bit. -/
theorem stepsLeft_step {u : Hsd} (h : u.dstate ≠ .copy) :
    stepsLeft u.step.dstate < stepsLeft u.dstate + 5 * u.need := by
  cases hd : u.dstate with
  | tag =>
    rw [hsd_step_of_tag hd, Hsd.need, hd]
    split
    · simp [stepsLeft]
    · dsimp only; split <;> simp [stepsLeft]
  | lit => simp [hsd_step_of_lit hd, Hsd.need, hd, stepsLeft]
  | idxHi => simp only [hsd_step_of_idxHi hd, stepsLeft]; omega
  | idxLo =>
    rw [hsd_step_of_idxLo hd]
    dsimp only
    split <;> simp only [stepsLeft] <;> omega
  | cntHi => simp only [hsd_step_of_cntHi hd, stepsLeft]; omega
  | cntLo => simp only [hsd_step_of_cntLo hd, stepsLeft]; omega
  | copy => exact absurd hd h

theorem stepsLeft_copyStep (u : Hsd) : stepsLeft u.copyStep.dstate = 0 := by
  rw [Hsd.copyStep_dstate]
  split <;> rfl

theorem stepsLeft_le (d : DState) : stepsLeft d ≤ 4 := by cases d <;> decide

/-- The loop of the model is a run of R180's loop to one of its own ends, given iterations enough: each one outputs a
byte, takes a bit or moves on within its token. -/
theorem hsdPollLoop_run (fuel room : Nat) (u : Hsd) (h : room + 5 * u.avail + stepsLeft u.dstate < fuel) :
    HsdPollRun room u (hsdPollLoop fuel room u).unit (hsdPollLoop fuel room u).status
      (hsdPollLoop fuel room u).dout := by
  induction fuel generalizing room u with
  | zero => omega
  | succ fuel ih =>
    unfold hsdPollLoop
    split
    next hcopy =>
      obtain _ | room := room
      · exact .copyFull hcopy
      · refine .copyByte hcopy (ih room u.copyStep ?_)
        have hsame : u.copyStep.avail = u.avail := rfl
        have := stepsLeft_copyStep u
        omega
    next hcopy =>
      split
      next hstarved => exact .starved hcopy hstarved
      next henough =>
        have hneed : u.need ≤ u.avail := Nat.le_of_not_lt henough
        have havail := hsd_step_avail hneed
        have hsteps := stepsLeft_step hcopy
        split
        next hlit =>
          obtain _ | room := room
          · exact .litFull hlit hneed
          · exact .litByte hlit hneed (ih room u.step (by omega))
        next hlit => exact .bits hcopy hlit hneed (ih room u.step (by omega))

theorem hsd_poll_run (u : Hsd) : HsdPollRun u.outCap.toNat u u.poll.unit u.poll.status u.poll.dout :=
  hsdPollLoop_run _ _ u (by
    have := stepsLeft_le u.dstate
    unfold Hsd.pollFuel
    omega)

theorem exec_hsdPoll_of_configured {s : State} (h : s.hsd.cfgd = true) :
    exec .hsdPoll s =
      answer { s with hsd := s.hsd.poll.unit } s.hsd.poll.status s.hsd.poll.dout.length s.hsd.poll.dout :=
  if_neg (by simp [h])

/-- Settles O26: the need table, the step of each state, and that the loop of the model ends as R180 says. -/
theorem hsdPollRule : Obligations.HsdPollRule :=
  ⟨encodedBare_of_decode fun imm din => by rw [decode, opcodeOf_cmd]; rfl,
    fun u => ⟨hsd_avail_eq u, hsd_need_eq_needed u, hsd_stepRule u⟩,
    fun _ h => exec_hsdPoll_of_unconfigured h,
    fun s h => ⟨_, _, _, hsd_poll_run s.hsd, exec_hsdPoll_of_configured h⟩⟩

end Sys2Proof.Proofs

/-! PROOF that streaming decode is pure decode (spec/42_heatshrink_decoder.md R184), by a simulation. A unit between two
commands stands for the rest of a decode: the bits of the token it has read (`readBits`), the bits it has not read
(`pendingBits`), and the bytes it has yet to output (`remaining`). No step of HSD_POLL changes output plus
`remaining`. -/

namespace Sys2Proof.Proofs

open Sys2Proof.Machine Sys2Proof.Claims

/-! ## Bits of numbers and bytes (spec/00_scope.md R10) -/

@[simp] theorem bitsOfNat_length (n v : Nat) : (bitsOfNat n v).length = n := by
  induction n with
  | zero => rfl
  | succ n ih => rw [bitsOfNat, List.length_cons, ih]

@[simp] theorem bitsOfBytes_length (bs : List Byte) : (bitsOfBytes bs).length = 8 * bs.length := by
  induction bs with
  | nil => rfl
  | cons b bs ih => rw [bitsOfBytes, List.length_append, bitsOfNat_length, ih, List.length_cons]; omega

theorem bitsOfBytes_append (a b : List Byte) : bitsOfBytes (a ++ b) = bitsOfBytes a ++ bitsOfBytes b := by
  induction a with
  | nil => rfl
  | cons x a ih => rw [List.cons_append, bitsOfBytes, ih, bitsOfBytes, List.append_assoc]

/-- `n` bits show the number modulo `2^n` and no more. -/
theorem bitsOfNat_mod {k n : Nat} (h : k ≤ n) (v : Nat) : bitsOfNat k (v % 2 ^ n) = bitsOfNat k v := by
  induction k with
  | zero => rfl
  | succ k ih =>
    have hk : k < n := h
    rw [bitsOfNat, bitsOfNat, ih hk.le, Nat.testBit_mod_two_pow, decide_eq_true hk, Bool.true_and]

theorem bitsOfNat_add (a b v : Nat) : bitsOfNat (a + b) v = bitsOfNat a (v / 2 ^ b) ++ bitsOfNat b v := by
  induction a with
  | zero => rw [Nat.zero_add]; rfl
  | succ a ih => rw [Nat.succ_add, bitsOfNat, ih, bitsOfNat, List.cons_append, Nat.testBit_div_two_pow]

theorem natOfBitsFrom_bitsOfNat (a k v : Nat) : natOfBitsFrom a (bitsOfNat k v) = a * 2 ^ k + v % 2 ^ k := by
  induction k generalizing a with
  | zero => simp [bitsOfNat, natOfBitsFrom, Nat.mod_one]
  | succ k ih =>
    rw [bitsOfNat, natOfBitsFrom, ih, Nat.mod_pow_succ, Nat.toNat_testBit, Nat.pow_succ]
    ring

/-- Reading back a number written in `k` bits. -/
theorem takeBits_bitsOfNat {k v : Nat} (h : v < 2 ^ k) (rest : List Bool) :
    takeBits k (bitsOfNat k v ++ rest) = some (v, rest) := by
  have htake : (bitsOfNat k v ++ rest).take k = bitsOfNat k v := List.take_left' (bitsOfNat_length k v)
  have hdrop : (bitsOfNat k v ++ rest).drop k = rest := List.drop_left' (bitsOfNat_length k v)
  rw [takeBits, htake, hdrop, if_pos (bitsOfNat_length k v), natOfBitsFrom_bitsOfNat, Nat.zero_mul, Nat.zero_add,
    Nat.mod_eq_of_lt h]

theorem takeBits_eq_none {k : Nat} {bits : List Bool} (h : bits.length < k) : takeBits k bits = none := by
  rw [takeBits, if_neg]
  rw [List.length_take]
  omega

theorem takeBits_some_length {k v : Nat} {bits rest : List Bool} (h : takeBits k bits = some (v, rest)) :
    rest.length + k = bits.length := by
  unfold takeBits at h
  split at h
  next hlen =>
    obtain ⟨-, rfl⟩ := Prod.mk.inj (Option.some.inj h)
    rw [List.length_take] at hlen
    rw [List.length_drop]
    omega
  next => exact absurd h nofun

/-! ## Fields read in two parts (R176): the bits above 8, then the low 8 -/

section HighLow

variable {high low n : Nat} (hhigh : high % 256 = 0) (hfit : high < 2 ^ n) (hlow : low < 2 ^ min n 8)

include hhigh hfit hlow

theorem high_add_low_lt : high + low < 2 ^ n := by
  obtain hn | hn := Nat.lt_or_ge n 8
  · have : 2 ^ n ≤ 2 ^ 8 := Nat.pow_le_pow_right two_pos hn.le
    rw [Nat.min_eq_left hn.le] at hlow
    omega
  · have : 2 ^ n = 2 ^ (n - 8) * 2 ^ 8 := by rw [← Nat.pow_add, Nat.sub_add_cancel hn]
    rw [Nat.min_eq_right hn] at hlow
    omega

theorem bitsOfNat_high_add_low :
    bitsOfNat n (high + low) = bitsOfNat (n - 8) (high / 256) ++ bitsOfNat (min n 8) low := by
  obtain hn | hn := Nat.lt_or_ge n 8
  · have : 2 ^ n ≤ 2 ^ 8 := Nat.pow_le_pow_right two_pos hn.le
    have hzero : high = 0 := by omega
    rw [hzero, Nat.zero_add, Nat.sub_eq_zero_of_le hn.le, Nat.min_eq_left hn.le]
    rfl
  · rw [Nat.min_eq_right hn] at hlow ⊢
    have hdiv : (high + low) / 2 ^ 8 = high / 256 := by omega
    have hmod : (high + low) % 2 ^ 8 = low % 2 ^ 8 := by omega
    calc bitsOfNat n (high + low)
        = bitsOfNat (n - 8 + 8) (high + low) := by rw [Nat.sub_add_cancel hn]
      _ = bitsOfNat (n - 8) (high / 256) ++ bitsOfNat 8 ((high + low) % 2 ^ 8) := by
          rw [bitsOfNat_add, hdiv, bitsOfNat_mod le_rfl]
      _ = bitsOfNat (n - 8) (high / 256) ++ bitsOfNat 8 low := by rw [hmod, bitsOfNat_mod le_rfl]

end HighLow

/-- `field | take(k)`, plus 1: the low bits meet zeros, and 16 bits hold the sum. -/
theorem toNat_or_low_add_one {field : BitVec 16} {low n : Nat} (hn : n ≤ 15) (hhigh : field.toNat % 256 = 0)
    (hfit : field.toNat < 2 ^ n) (hlow : low < 2 ^ min n 8) :
    ((field ||| BitVec.ofNat 16 low) + 1).toNat = field.toNat + low + 1 := by
  have hlow8 : low < 2 ^ 8 := lt_of_lt_of_le hlow (Nat.pow_le_pow_right two_pos (Nat.min_le_right n 8))
  have hor : field.toNat ||| low = field.toNat + low := by
    have := Nat.two_pow_add_eq_or_of_lt hlow8 (field.toNat / 256)
    rw [show 2 ^ 8 * (field.toNat / 256) = field.toNat by omega] at this
    exact this.symm
  have hsum : field.toNat + low < 2 ^ 15 :=
    lt_of_lt_of_le (high_add_low_lt hhigh hfit hlow) (Nat.pow_le_pow_right two_pos hn)
  rw [BitVec.toNat_add, show (1 : BitVec 16).toNat = 1 from rfl, BitVec.toNat_or, BitVec.toNat_ofNat,
    Nat.mod_eq_of_lt (by omega : low < 2 ^ 16), hor]
  exact Nat.mod_eq_of_lt (by omega)

/-- `take(k) << 8` of a field of at most 15 bits: 16 bits hold it, and its low bits are zeros. -/
theorem toNat_high {v n : Nat} (hn : n ≤ 15) (h8 : 8 < n) (hv : v < 2 ^ (n - 8)) :
    (BitVec.ofNat 16 (v * 256)).toNat = v * 256 ∧ v * 256 < 2 ^ n := by
  have hpow : 2 ^ n = 2 ^ (n - 8) * 2 ^ 8 := by rw [← Nat.pow_add, Nat.sub_add_cancel h8.le]
  have hmax : 2 ^ n ≤ 2 ^ 15 := Nat.pow_le_pow_right two_pos hn
  rw [BitVec.toNat_ofNat]
  omega

/-! ## `take(k)` reads the bits not yet read (R175) -/

theorem pendingBits_length (u : Hsd) : (pendingBits u).length = u.avail := by
  rw [pendingBits, List.length_append, bitsOfNat_length, bitsOfBytes_length, Hsd.avail]

theorem pendingBits_load (u : Hsd) : pendingBits u.load = pendingBits u := by
  obtain hload | ⟨b, rest, hleft, hinq, hload⟩ := u.load_cases
  · rw [hload]
  · rw [hload, pendingBits, pendingBits, hleft, hinq]; rfl

theorem pendingBits_eq_cons {u : Hsd} (h : 1 ≤ u.avail) :
    pendingBits u = u.load.nextBit :: pendingBits u.afterBit := by
  have hleft := Hsd.load_left_pos h
  have hpred : u.afterBit.left.toNat = u.load.left.toNat - 1 := by
    have := u.load.left.isLt
    simp only [Hsd.afterBit, BitVec.toNat_sub, BitVec.toNat_ofNat]
    omega
  calc pendingBits u
      = bitsOfNat (u.load.left.toNat - 1 + 1) u.load.cur.toNat ++ bitsOfBytes u.load.inq := by
        rw [Nat.sub_add_cancel hleft, ← pendingBits_load u]; rfl
    _ = u.load.nextBit ::
          (bitsOfNat (u.load.left.toNat - 1) u.load.cur.toNat ++ bitsOfBytes u.load.inq) := rfl
    _ = u.load.nextBit :: pendingBits u.afterBit := by rw [← hpred]; rfl

/-- The first of the bits that `take` adds is the one above the others. -/
theorem testBit_takeFrom (b : Bool) (v k : Nat) (u : Hsd) :
    (Hsd.takeFrom (2 * v + b.toNat) k u).1.testBit k = b := by
  obtain ⟨hlow, hhigh⟩ := Hsd.takeFrom_value k (2 * v + b.toNat) u
  have hdiv : (Hsd.takeFrom (2 * v + b.toNat) k u).1 / 2 ^ k = 2 * v + b.toNat :=
    Nat.div_eq_of_lt_le hlow hhigh
  rw [Nat.testBit_eq_decide_div_mod_eq, hdiv]
  cases b <;> simp

theorem pendingBits_takeFrom {k : Nat} (v : Nat) {u : Hsd} (h : k ≤ u.avail) :
    pendingBits u = bitsOfNat k (Hsd.takeFrom v k u).1 ++ pendingBits (Hsd.takeFrom v k u).2 := by
  induction k generalizing v u with
  | zero => rfl
  | succ k ih =>
    have havail := Hsd.afterBit_avail (u := u) (by omega)
    rw [pendingBits_eq_cons (by omega), Hsd.takeFrom, bitsOfNat, testBit_takeFrom, List.cons_append,
      ← ih (2 * v + u.load.nextBit.toNat) (by omega)]

theorem pendingBits_eq_takeValue_append {k : Nat} {u : Hsd} (h : k ≤ u.avail) :
    pendingBits u = bitsOfNat k (u.takeValue k) ++ pendingBits (u.taken k) := pendingBits_takeFrom 0 h

/-! ## The pure decoder without its fuel (R183) -/

/-- `hs_decode` from a window on, with as much fuel as the bits need. -/
def decodeBits (w l : Nat) (bits : List Bool) (d : HsWindow) : List Byte := hsDecodeLoop w l (bits.length + 1) bits d

theorem hsDecode_eq_decodeBits (w l : Nat) (s : List Byte) :
    hsDecode w l s = decodeBits w l (bitsOfBytes s) ⟨[], 0⟩ := rfl

/-- Fuel beyond the number of bits changes nothing. -/
theorem hsDecodeLoop_fuel {w l fuel fuel' : Nat} {bits : List Bool} (d : HsWindow) (h : bits.length < fuel)
    (h' : bits.length < fuel') : hsDecodeLoop w l fuel bits d = hsDecodeLoop w l fuel' bits d := by
  induction fuel generalizing fuel' bits d with
  | zero => omega
  | succ fuel ih =>
    obtain _ | fuel' := fuel'
    · omega
    match bits with
    | [] => rfl
    | true :: bits =>
      simp only [List.length_cons, hsDecodeLoop] at h h' ⊢
      cases htake : takeBits 8 bits with
      | none => rfl
      | some read =>
        have := takeBits_some_length htake
        simp only [ih (fuel' := fuel') (bits := read.2) _ (by omega) (by omega)]
    | false :: bits =>
      simp only [List.length_cons, hsDecodeLoop] at h h' ⊢
      cases hoff : takeBits w bits with
      | none => rfl
      | some off =>
        have hoffLen := takeBits_some_length hoff
        cases hlen : takeBits l off.2 with
        | none => simp only [hlen]
        | some len =>
          have := takeBits_some_length hlen
          simp only [hlen, ih (fuel' := fuel') (bits := len.2) _ (by omega) (by omega)]

section PureDecode

variable {w l : Nat} (d : HsWindow)

theorem decodeBits_nil : decodeBits w l [] d = [] := rfl

theorem decodeBits_literal {c : Nat} (hc : c < 2 ^ 8) (rest : List Bool) :
    decodeBits w l (true :: (bitsOfNat 8 c ++ rest)) d =
      BitVec.ofNat 8 c :: decodeBits w l rest (d.push w (BitVec.ofNat 8 c)) := by
  rw [decodeBits, hsDecodeLoop, takeBits_bitsOfNat hc]
  dsimp only
  rw [decodeBits, hsDecodeLoop_fuel _ (by simp) (Nat.lt_succ_self _)]

theorem decodeBits_backref {o n : Nat} (ho : o < 2 ^ w) (hn : n < 2 ^ l) (rest : List Bool) :
    decodeBits w l (false :: (bitsOfNat w o ++ (bitsOfNat l n ++ rest))) d =
      hsCopyBytes w (o + 1) (n + 1) d ++ decodeBits w l rest (hsCopyWindow w (o + 1) (n + 1) d) := by
  rw [decodeBits, hsDecodeLoop, takeBits_bitsOfNat ho]
  dsimp only
  rw [takeBits_bitsOfNat hn]
  dsimp only
  rw [decodeBits, hsDecodeLoop_fuel _ (by simp; omega) (Nat.lt_succ_self _)]

/-- A literal cut short outputs nothing. -/
theorem decodeBits_literal_short {bits : List Bool} (h : bits.length < 8) :
    decodeBits w l (true :: bits) d = [] := by
  rw [decodeBits, hsDecodeLoop, takeBits_eq_none h]

/-- A backreference cut short outputs nothing. -/
theorem decodeBits_backref_short {bits : List Bool} (h : bits.length < w + l) :
    decodeBits w l (false :: bits) d = [] := by
  rw [decodeBits, hsDecodeLoop]
  cases hoff : takeBits w bits with
  | none => rfl
  | some off =>
    have := takeBits_some_length hoff
    simp only [takeBits_eq_none (k := l) (bits := off.2) (by omega)]

end PureDecode

/-! ## The invariant of HSD along HSD_POLL's loop (spec/10_state.md R24 to R33) -/

/-- INDEX after IDX_LO is an offset, COUNT after CNT_LO a length: the number read, plus 1. -/
theorem toNat_field_bounds {field : BitVec 16} {low n : Nat} (hn : n ≤ 15) (hhigh : field.toNat % 256 = 0)
    (hfit : field.toNat < 2 ^ n) (hlow : low < 2 ^ min n 8) :
    1 ≤ ((field ||| BitVec.ofNat 16 low) + 1).toNat ∧ ((field ||| BitVec.ofNat 16 low) + 1).toNat ≤ 2 ^ n := by
  have := high_add_low_lt hhigh hfit hlow
  rw [toNat_or_low_add_one hn hhigh hfit hlow]
  omega

/-- COUNT counts down while a byte is left to copy. -/
theorem toNat_pred {count : BitVec 16} (h : 1 ≤ count.toNat) : (count - 1#16).toNat = count.toNat - 1 := by
  rw [BitVec.toNat_sub, BitVec.toNat_ofNat]
  omega

section Invariant

variable {u : Hsd} (h : u.Inv) (hcfgd : u.cfgd = true)

include h hcfgd

theorem hsd_inv_taken {k : Nat} (hk : k ≤ u.avail) : (u.taken k).Inv := by
  have hs := u.taken_same k
  constructor
  case unconfigured => rw [hs.cfgd, hcfgd]; exact nofun
  case configured => rw [hs.cfgd, hs.w, hs.l, hs.inCap, hs.outCap]; exact h.configured
  case queue => rw [hs.inCap]; exact le_trans (Hsd.takeFrom_inq k 0 u) h.queue
  case left_le => exact Hsd.takeFrom_left_le 0 h.left_le hk
  case idxHi => rw [hs.dstate, hs.w]; exact h.idxHi
  case idxLo => rw [hs.dstate, hs.w, hs.index]; exact h.idxLo
  case offset => rw [hs.dstate, hs.w, hs.index]; exact h.offset
  case cntHi => rw [hs.dstate, hs.l]; exact h.cntHi
  case cntLo => rw [hs.dstate, hs.l, hs.count]; exact h.cntLo
  case copy => rw [hs.dstate, hs.l, hs.count]; exact h.copy
  case dict_wf => rw [Hsd.size, hs.w, hs.dict]; exact h.dict_wf

theorem hsd_inv_put (c : Byte) : (u.put c).Inv :=
  { h with
    unconfigured := by rw [Hsd.put_cfgd, hcfgd]; exact nofun
    dict_wf := Memory.wf_memWrite h.dict_wf (Nat.mod_lt _ (Nat.two_pow_pos _)) }

theorem hsd_inv_flags (f m : Bool) : { u with finishing := f, misuse := m }.Inv :=
  { h with unconfigured := fun hno => absurd (hcfgd.symm.trans hno) nofun }

/-- Moving on within the token keeps the invariant as soon as its clauses about the new state hold. -/
theorem hsd_inv_token {ds : DState} {index count : BitVec 16}
    (idxHi : ds = .idxHi → 8 < u.w.toNat := by exact nofun)
    (idxLo : ds = .idxLo → index.toNat % 256 = 0 ∧ index.toNat < 2 ^ u.w.toNat := by exact nofun)
    (offset : ds = .cntHi ∨ ds = .cntLo ∨ ds = .copy → 1 ≤ index.toNat ∧ index.toNat ≤ 2 ^ u.w.toNat := by
      exact nofun)
    (cntHi : ds = .cntHi → 8 < u.l.toNat := by exact nofun)
    (cntLo : ds = .cntLo → count.toNat % 256 = 0 ∧ count.toNat < 2 ^ u.l.toNat := by exact nofun)
    (copy : ds = .copy → 1 ≤ count.toNat ∧ count.toNat ≤ 2 ^ u.l.toNat := by exact nofun) :
    { u with dstate := ds, index := index, count := count }.Inv :=
  { h with
    unconfigured := fun hno => absurd (hcfgd.symm.trans hno) nofun
    idxHi := idxHi, idxLo := idxLo, offset := offset, cntHi := cntHi, cntLo := cntLo, copy := copy }

theorem hsd_inv_stored_literal (c : Byte) : { u.put c with dstate := .tag }.Inv :=
  hsd_inv_token (hsd_inv_put h hcfgd c) hcfgd

theorem hsd_inv_step (hneed : u.need ≤ u.avail) : u.step.Inv := by
  have hw : u.w.toNat ≤ 15 := by omega
  have hl : u.l.toNat ≤ 15 := by omega
  have htaken {k : Nat} (hk : u.need = k) : (u.taken k).Inv ∧ u.SameButBits (u.taken k) ∧ (u.taken k).cfgd = true :=
    ⟨hsd_inv_taken h hcfgd (hk ▸ hneed), u.taken_same k, (u.taken_same k).cfgd.trans hcfgd⟩
  cases hd : u.dstate with
  | tag =>
    obtain ⟨hinv, hs, hc⟩ := htaken (k := 1) (by rw [Hsd.need, hd])
    rw [hsd_step_of_tag hd]
    split
    · exact hsd_inv_token hinv hc
    · split
      next h8 => exact hsd_inv_token hinv hc (idxHi := fun _ => hs.w ▸ h8)
      next => exact hsd_inv_token hinv hc (idxLo := fun _ => ⟨rfl, Nat.two_pow_pos _⟩)
  | lit =>
    obtain ⟨hinv, -, hc⟩ := htaken (k := 8) (by rw [Hsd.need, hd])
    rw [hsd_step_of_lit hd]
    exact hsd_inv_stored_literal hinv hc u.litByte
  | idxHi =>
    obtain ⟨hinv, hs, hc⟩ := htaken (k := u.w.toNat - 8) (by rw [Hsd.need, hd])
    obtain ⟨hval, hfit⟩ := toNat_high hw (h.idxHi hd) (u.takeValue_lt _)
    rw [hsd_step_of_idxHi hd]
    refine hsd_inv_token hinv hc (idxLo := fun _ => ?_)
    rw [hval, hs.w]
    exact ⟨Nat.mul_mod_left _ _, hfit⟩
  | idxLo =>
    obtain ⟨hinv, hs, hc⟩ := htaken (k := min u.w.toNat 8) (by rw [Hsd.need, hd])
    obtain ⟨hhigh, hfit⟩ := h.idxLo hd
    have hoff := toNat_field_bounds hw hhigh hfit (u.takeValue_lt _)
    rw [hsd_step_of_idxLo hd]
    split
    next h8 =>
      exact hsd_inv_token hinv hc (offset := fun _ => by rw [hs.w]; exact hoff) (cntHi := fun _ => hs.l ▸ h8)
    next =>
      exact hsd_inv_token hinv hc (offset := fun _ => by rw [hs.w]; exact hoff)
        (cntLo := fun _ => ⟨rfl, Nat.two_pow_pos _⟩)
  | cntHi =>
    obtain ⟨hinv, hs, hc⟩ := htaken (k := u.l.toNat - 8) (by rw [Hsd.need, hd])
    obtain ⟨hval, hfit⟩ := toNat_high hl (h.cntHi hd) (u.takeValue_lt _)
    rw [hsd_step_of_cntHi hd]
    refine hsd_inv_token hinv hc (offset := fun _ => ?_) (cntLo := fun _ => ?_)
    · rw [hs.index, hs.w]
      exact h.offset (.inl hd)
    · rw [hval, hs.l]
      exact ⟨Nat.mul_mod_left _ _, hfit⟩
  | cntLo =>
    obtain ⟨hinv, hs, hc⟩ := htaken (k := min u.l.toNat 8) (by rw [Hsd.need, hd])
    obtain ⟨hhigh, hfit⟩ := h.cntLo hd
    have hlen := toNat_field_bounds hl hhigh hfit (u.takeValue_lt _)
    rw [hsd_step_of_cntLo hd]
    refine hsd_inv_token hinv hc (offset := fun _ => ?_) (copy := fun _ => by rw [hs.l]; exact hlen)
    rw [hs.index, hs.w]
    exact h.offset (.inr (.inl hd))
  | copy => rwa [hsd_step_of_copy hd]

theorem hsd_inv_copyStep (hcopy : u.dstate = .copy) : u.copyStep.Inv := by
  have hput := hsd_inv_put h hcfgd u.copyByte
  obtain ⟨hpos, hmax⟩ := h.copy hcopy
  have hoff := h.offset (.inr (.inr hcopy))
  have hpred := toNat_pred hpos
  rw [Hsd.copyStep]
  split
  next => exact hsd_inv_token hput hcfgd
  next hmore =>
    have hne : (u.count - 1#16).toNat ≠ 0 := fun hzero => hmore (BitVec.eq_of_toNat_eq hzero)
    refine hsd_inv_token hput hcfgd (offset := fun _ => hoff) (copy := fun _ => ?_)
    rw [Hsd.put_l]
    omega

end Invariant

/-! ## What a unit has yet to output -/

/-- The bits of the current token that the unit has read, recovered from INDEX and COUNT (spec/10_state.md R31, R32). -/
def readBits (u : Hsd) : List Bool :=
  match u.dstate with
  | .tag | .copy => []
  | .lit => [true]
  | .idxHi => [false]
  | .idxLo => false :: bitsOfNat (u.w.toNat - 8) (u.index.toNat / 256)
  | .cntHi => false :: bitsOfNat u.w.toNat (u.index.toNat - 1)
  | .cntLo =>
    false :: (bitsOfNat u.w.toNat (u.index.toNat - 1) ++ bitsOfNat (u.l.toNat - 8) (u.count.toNat / 256))

/-- The bytes a unit with the window `d` outputs while it reads `bits`: those of the copy under way, then those of
`hs_decode` from the current token on. -/
def remaining (u : Hsd) (d : HsWindow) (bits : List Bool) : List Byte :=
  if u.dstate = .copy then
    hsCopyBytes u.w.toNat u.index.toNat u.count.toNat d ++
      decodeBits u.w.toNat u.l.toNat bits (hsCopyWindow u.w.toNat u.index.toNat u.count.toNat d)
  else decodeBits u.w.toNat u.l.toNat (readBits u ++ bits) d

/-- The unit's dictionary and HEAD are those of `hs_decode`; HEAD counts modulo 2^16 (spec/10_state.md R30, R33). -/
structure SameWindow (u : Hsd) (d : HsWindow) : Prop where
  dict : u.dict = d.dict
  head : u.head = BitVec.ofNat 16 d.head

theorem sameWindow_of_eq {u v : Hsd} {d : HsWindow} (h : SameWindow u d) (hdict : v.dict = u.dict)
    (hhead : v.head = u.head) : SameWindow v d :=
  ⟨hdict.trans h.dict, hhead.trans h.head⟩

/-- HEAD and the count of `hs_decode` are congruent modulo the dictionary's size, which divides 2^16. -/
theorem toNat_head_mod {u : Hsd} {d : HsWindow} (h : SameWindow u d) :
    u.head.toNat % 2 ^ u.w.toNat = d.head % 2 ^ u.w.toNat := by
  have hdvd : 2 ^ u.w.toNat ∣ 2 ^ 16 := Nat.pow_dvd_pow 2 (by omega)
  rw [h.head, BitVec.toNat_ofNat, Nat.mod_mod_of_dvd _ hdvd]

theorem sameWindow_put {u : Hsd} {d : HsWindow} (h : SameWindow u d) (c : Byte) :
    SameWindow (u.put c) (d.push u.w.toNat c) := by
  constructor
  · rw [Hsd.put_dict, Hsd.size, toNat_head_mod h, h.dict, HsWindow.push]
  · rw [Hsd.put_head, h.head, HsWindow.push, BitVec.ofNat_add]

theorem sameWindow_stored {u : Hsd} {d : HsWindow} (h : SameWindow u d) (c : Byte) (ds : DState) :
    SameWindow { u.put c with dstate := ds } (d.push u.w.toNat c) := sameWindow_of_eq (sameWindow_put h c) rfl rfl

/-- A copy step reads the byte that `hs_decode` reads. -/
theorem copyByte_eq_back {u : Hsd} {d : HsWindow} (h : SameWindow u d) (hindex : u.index.toNat ≤ 2 ^ u.w.toNat) :
    u.copyByte = d.back u.w.toNat u.index.toNat := by
  have hmod : (((d.head + 2 ^ u.w.toNat - u.index.toNat) % 2 ^ u.w.toNat : Nat) : Int) =
      ((u.head.toNat : Int) - u.index.toNat) % 2 ^ u.w.toNat := by
    have hhead : (d.head : Int) % 2 ^ u.w.toNat = (u.head.toNat : Int) % 2 ^ u.w.toNat := by
      exact_mod_cast (toNat_head_mod h).symm
    rw [Int.natCast_emod, Nat.cast_sub (le_trans hindex (Nat.le_add_left _ _)), Nat.cast_add, Nat.cast_pow,
      Nat.cast_ofNat, add_sub_right_comm, Int.add_emod_right, Int.sub_emod, hhead, ← Int.sub_emod]
  rw [hsd_copyByte_eq, ← hmod, Int.toNat_natCast, HsWindow.back, h.dict]

theorem remaining_of_ne_copy {u : Hsd} (h : u.dstate ≠ .copy) (d : HsWindow) (bits : List Bool) :
    remaining u d bits = decodeBits u.w.toNat u.l.toNat (readBits u ++ bits) d := if_neg h

theorem remaining_of_copy {u : Hsd} (h : u.dstate = .copy) (d : HsWindow) (bits : List Bool) :
    remaining u d bits = hsCopyBytes u.w.toNat u.index.toNat u.count.toNat d ++
      decodeBits u.w.toNat u.l.toNat bits (hsCopyWindow u.w.toNat u.index.toNat u.count.toNat d) := if_pos h

/-! ## A copy step outputs the next byte -/

theorem remaining_copyStep {u : Hsd} (h : u.Inv) (hcopy : u.dstate = .copy) {d : HsWindow} (hd : SameWindow u d)
    (bits : List Bool) :
    remaining u d bits = u.copyByte :: remaining u.copyStep (d.push u.w.toNat u.copyByte) bits := by
  obtain ⟨hpos, -⟩ := h.copy hcopy
  obtain ⟨-, hindex⟩ := h.offset (.inr (.inr hcopy))
  obtain ⟨n, hn⟩ : ∃ n, u.count.toNat = n + 1 := ⟨u.count.toNat - 1, by omega⟩
  have hpred : (u.count - 1#16).toNat = n := by rw [toNat_pred hpos, hn, Nat.add_sub_cancel]
  rw [remaining_of_copy hcopy, hn, hsCopyBytes, hsCopyWindow, ← copyByte_eq_back hd hindex, List.cons_append]
  congr 1
  by_cases hlast : u.count - 1#16 = 0#16
  · have htag : u.copyStep.dstate = .tag := by rw [Hsd.copyStep_dstate, if_pos hlast]
    have hzero : n = 0 := by rw [← hpred, hlast]; rfl
    rw [remaining_of_ne_copy (by rw [htag]; exact nofun), readBits, htag, hzero]
    rfl
  · have hmore : u.copyStep.dstate = .copy := by rw [Hsd.copyStep_dstate, if_neg hlast]
    rw [remaining_of_copy hmore, Hsd.copyStep_count, hpred]
    rfl

/-! ## A step outputs nothing, or the literal's byte -/

/-- A step keeps the configuration and, but for a literal's byte, the window. -/
theorem hsd_step_kept (u : Hsd) :
    u.step.cfgd = u.cfgd ∧ u.step.w = u.w ∧ u.step.l = u.l ∧
      (u.dstate ≠ .lit → u.step.dict = u.dict ∧ u.step.head = u.head) := by
  have hs := u.taken_same u.need
  obtain ⟨hlit, hstep⟩ | ⟨-, d, index, count, hstep⟩ := hsd_step_form u
  · rw [hstep]
    exact ⟨hs.cfgd, hs.w, hs.l, fun hne => absurd hlit hne⟩
  · rw [hstep]
    exact ⟨hs.cfgd, hs.w, hs.l, fun _ => ⟨hs.dict, hs.head⟩⟩

theorem hsd_step_cfgd (u : Hsd) : u.step.cfgd = u.cfgd := have ⟨hcfgd, _⟩ := hsd_step_kept u; hcfgd

theorem hsd_step_w (u : Hsd) : u.step.w = u.w := have ⟨_, hw, _⟩ := hsd_step_kept u; hw

theorem hsd_step_l (u : Hsd) : u.step.l = u.l := have ⟨_, _, hl, _⟩ := hsd_step_kept u; hl

theorem sameWindow_step_of_lit {u : Hsd} {d : HsWindow} (h : SameWindow u d) (hlit : u.dstate = .lit) :
    SameWindow u.step (d.push u.w.toNat u.litByte) := by
  have hs := u.taken_same 8
  rw [hsd_step_of_lit hlit, ← hs.w]
  exact sameWindow_stored (sameWindow_of_eq h hs.dict hs.head) u.litByte .tag

/-- Storing a byte reads no bits. -/
theorem pendingBits_stored (u : Hsd) (c : Byte) (ds : DState) :
    pendingBits { u.put c with dstate := ds } = pendingBits u := rfl

section Step

variable {u : Hsd} (h : u.Inv) (hneed : u.need ≤ u.avail)

include h hneed

/-- Within a token a step moves bits from those not read to those read. -/
theorem readBits_step (hcopy : u.dstate ≠ .copy) (hlit : u.dstate ≠ .lit) (hcntLo : u.dstate ≠ .cntLo) :
    u.step.dstate ≠ .copy ∧ readBits u.step ++ pendingBits u.step = readBits u ++ pendingBits u := by
  have hw : u.w.toNat ≤ 15 := by omega
  have hl : u.l.toNat ≤ 15 := by omega
  have hbits {k : Nat} (hk : u.need = k) :
      pendingBits u = bitsOfNat k (u.takeValue k) ++ pendingBits (u.taken k) ∧ u.SameButBits (u.taken k) :=
    ⟨pendingBits_eq_takeValue_append (hk ▸ hneed), u.taken_same k⟩
  cases hd : u.dstate with
  | tag =>
    obtain ⟨hp, hs⟩ := hbits (k := 1) (by rw [Hsd.need, hd])
    rw [hp, hsd_step_of_tag hd, readBits.eq_def u, hd]
    split
    next hone =>
      rw [hone]
      exact ⟨nofun, rfl⟩
    next hne =>
      have hzero : u.takeValue 1 = 0 := by have := u.takeValue_lt 1; omega
      rw [hzero]
      split
      next h8 => exact ⟨nofun, rfl⟩
      next h8 =>
        refine ⟨nofun, ?_⟩
        simp only [readBits, hs.w, Nat.sub_eq_zero_of_le (Nat.le_of_not_lt h8)]
        rfl
  | idxHi =>
    obtain ⟨hp, hs⟩ := hbits (k := u.w.toNat - 8) (by rw [Hsd.need, hd])
    obtain ⟨hval, -⟩ := toNat_high hw (h.idxHi hd) (u.takeValue_lt _)
    rw [hp, hsd_step_of_idxHi hd]
    refine ⟨nofun, ?_⟩
    simp only [readBits, hd, hs.w, hval, Nat.mul_div_cancel _ (show 0 < 256 by decide)]
    rfl
  | idxLo =>
    obtain ⟨hp, hs⟩ := hbits (k := min u.w.toNat 8) (by rw [Hsd.need, hd])
    obtain ⟨hhigh, hfit⟩ := h.idxLo hd
    have hval := toNat_or_low_add_one hw hhigh hfit (u.takeValue_lt _)
    rw [hp, hsd_step_of_idxLo hd, readBits.eq_def u, hd]
    split
    next h8 =>
      refine ⟨nofun, ?_⟩
      simp only [readBits, hs.w, hval, Nat.add_sub_cancel, bitsOfNat_high_add_low hhigh hfit (u.takeValue_lt _),
        List.cons_append, List.append_assoc]
      rfl
    next h8 =>
      refine ⟨nofun, ?_⟩
      simp only [readBits, hs.w, hs.l, hval, Nat.add_sub_cancel, Nat.sub_eq_zero_of_le (Nat.le_of_not_lt h8),
        bitsOfNat_high_add_low hhigh hfit (u.takeValue_lt _), bitsOfNat, List.append_nil, List.cons_append,
        List.append_assoc]
      rfl
  | cntHi =>
    obtain ⟨hp, hs⟩ := hbits (k := u.l.toNat - 8) (by rw [Hsd.need, hd])
    obtain ⟨hval, -⟩ := toNat_high hl (h.cntHi hd) (u.takeValue_lt _)
    rw [hp, hsd_step_of_cntHi hd]
    refine ⟨nofun, ?_⟩
    simp only [readBits, hd, hs.w, hs.l, hs.index, hval, Nat.mul_div_cancel _ (show 0 < 256 by decide),
      List.append_assoc, List.cons_append]
    rfl
  | lit => exact absurd hd hlit
  | cntLo => exact absurd hd hcntLo
  | copy => exact absurd hd hcopy

/-- A step that reads part of a token outputs nothing. -/
theorem remaining_step_of_readBits (hcopy : u.dstate ≠ .copy) (hlit : u.dstate ≠ .lit) (hcntLo : u.dstate ≠ .cntLo)
    (d : HsWindow) (future : List Bool) :
    remaining u.step d (pendingBits u.step ++ future) = remaining u d (pendingBits u ++ future) := by
  obtain ⟨hcopy', hread⟩ := readBits_step h hneed hcopy hlit hcntLo
  rw [remaining_of_ne_copy hcopy', remaining_of_ne_copy hcopy, ← List.append_assoc, hread, List.append_assoc,
    hsd_step_w, hsd_step_l]

/-- The last part of a backreference: the copy it starts is the one `hs_decode` makes. -/
theorem remaining_step_of_cntLo (hd : u.dstate = .cntLo) (d : HsWindow) (future : List Bool) :
    remaining u.step d (pendingBits u.step ++ future) = remaining u d (pendingBits u ++ future) := by
  have hl : u.l.toNat ≤ 15 := by omega
  have hp := pendingBits_eq_takeValue_append (k := min u.l.toNat 8) (u := u) (by rwa [Hsd.need, hd] at hneed)
  have hs := u.taken_same (min u.l.toNat 8)
  have hlow := u.takeValue_lt (min u.l.toNat 8)
  obtain ⟨hhigh, hfit⟩ := h.cntLo hd
  obtain ⟨hpos, hmax⟩ := h.offset (.inr (.inl hd))
  have hstep := hsd_step_of_cntLo hd
  have hcopy : u.step.dstate = .copy := by rw [hstep]
  have hindex : u.step.index.toNat = u.index.toNat - 1 + 1 := by rw [hstep, hs.index]; omega
  have hcount : u.step.count.toNat = u.count.toNat + u.takeValue (min u.l.toNat 8) + 1 := by
    rw [hstep, toNat_or_low_add_one hl hhigh hfit hlow]
  have hpending : pendingBits u.step = pendingBits (u.taken (min u.l.toNat 8)) := by rw [hstep]; rfl
  rw [remaining_of_copy hcopy, hsd_step_w, hsd_step_l, hindex, hcount, hpending,
    ← decodeBits_backref d (by omega) (high_add_low_lt hhigh hfit hlow), bitsOfNat_high_add_low hhigh hfit hlow,
    remaining_of_ne_copy (by rw [hd]; exact nofun), readBits, hd, hp]
  simp only [List.cons_append, List.append_assoc]

end Step

/-- The last part of a literal outputs its byte. -/
theorem remaining_step_of_lit {u : Hsd} (hneed : u.need ≤ u.avail) (hd : u.dstate = .lit) (d : HsWindow)
    (future : List Bool) :
    remaining u d (pendingBits u ++ future) =
      u.litByte :: remaining u.step (d.push u.w.toNat u.litByte) (pendingBits u.step ++ future) := by
  have hp := pendingBits_eq_takeValue_append (k := 8) (u := u) (by rwa [Hsd.need, hd] at hneed)
  have hstep := hsd_step_of_lit hd
  have hnext : u.step.dstate = .tag := by rw [hstep]
  have hpending : pendingBits u.step = pendingBits (u.taken 8) := by rw [hstep, pendingBits_stored]
  rw [remaining_of_ne_copy (by rw [hd]; exact nofun), remaining_of_ne_copy (by rw [hnext]; exact nofun), readBits, hd,
    readBits, hnext, hsd_step_w, hsd_step_l, hpending, hp, List.nil_append, List.append_assoc,
    List.singleton_append, decodeBits_literal d (u.takeValue_lt 8),
    Hsd.litByte]

/-! ## The simulation (R184) -/

/-- The unit `u`, configured with `w` and `l`, has accepted `acc` and output `out`: whatever is accepted after it, what
it has output and what remains are together the decode of all that was accepted. -/
structure Tracks (w l : BitVec 4) (u : Hsd) (acc out : List Byte) : Prop where
  cfgd : u.cfgd = true
  w_eq : u.w = w
  l_eq : u.l = l
  inv : u.Inv
  decode : ∃ d, SameWindow u d ∧ ∀ future, hsDecode w.toNat l.toNat (acc ++ future) =
    out ++ remaining u d (pendingBits u ++ bitsOfBytes future)

section Tracks

variable {w l : BitVec 4} {u : Hsd} {s : State} {acc out : List Byte}

/-- A configured unit at the start of a stream. -/
theorem tracks_start {i o : BitVec 32} (h : ConfigLegal w l i o) :
    Tracks w l { Hsd.cleared with cfgd := true, w := w, l := l, inCap := i, outCap := o } [] [] where
  cfgd := rfl
  w_eq := rfl
  l_eq := rfl
  inv :=
    { unconfigured := nofun, configured := fun _ => h, queue := Nat.zero_le _, left_le := Nat.zero_le _,
      idxHi := nofun, idxLo := nofun, offset := nofun, cntHi := nofun, cntLo := nofun, copy := nofun,
      dict_wf := Memory.wf_nil _ }
  decode := ⟨⟨[], 0⟩, ⟨rfl, rfl⟩, hsDecode_eq_decodeBits w.toNat l.toNat⟩

/-- FINISHING and MISUSE are no part of a decode. -/
theorem tracks_flags (h : Tracks w l u acc out) (f m : Bool) :
    Tracks w l { u with finishing := f, misuse := m } acc out where
  cfgd := h.cfgd
  w_eq := h.w_eq
  l_eq := h.l_eq
  inv := hsd_inv_flags h.inv h.cfgd f m
  decode := by
    obtain ⟨d, hd, heq⟩ := h.decode
    exact ⟨d, sameWindow_of_eq hd rfl rfl, heq⟩

/-- Bytes accepted are bytes of the future that have come. -/
theorem tracks_sink (h : Tracks w l u acc out) {bytes : List Byte}
    (hroom : u.inq.length + bytes.length ≤ u.inCap.toNat) :
    Tracks w l { u with inq := u.inq ++ bytes } (acc ++ bytes) out where
  cfgd := h.cfgd
  w_eq := h.w_eq
  l_eq := h.l_eq
  inv :=
    { h.inv with
      unconfigured := fun hno => absurd (h.cfgd.symm.trans hno) nofun
      queue := List.length_append.trans_le hroom }
  decode := by
    obtain ⟨d, hd, heq⟩ := h.decode
    refine ⟨d, sameWindow_of_eq hd rfl rfl, fun future => ?_⟩
    rw [List.append_assoc, heq, bitsOfBytes_append, ← List.append_assoc]
    have hpending : pendingBits { u with inq := u.inq ++ bytes } = pendingBits u ++ bitsOfBytes bytes := by
      simp only [pendingBits, bitsOfBytes_append, List.append_assoc]
    rw [hpending]
    rfl

theorem tracks_copyStep (h : Tracks w l u acc out) (hcopy : u.dstate = .copy) :
    Tracks w l u.copyStep acc (out ++ [u.copyByte]) where
  cfgd := h.cfgd
  w_eq := h.w_eq
  l_eq := h.l_eq
  inv := hsd_inv_copyStep h.inv h.cfgd hcopy
  decode := by
    obtain ⟨d, hd, heq⟩ := h.decode
    refine ⟨d.push u.w.toNat u.copyByte, sameWindow_of_eq (sameWindow_put hd u.copyByte) rfl rfl, fun future => ?_⟩
    rw [heq, remaining_copyStep h.inv hcopy hd, List.append_assoc, List.singleton_append]
    rfl

theorem tracks_step_of_lit (h : Tracks w l u acc out) (hlit : u.dstate = .lit) (hneed : u.need ≤ u.avail) :
    Tracks w l u.step acc (out ++ [u.litByte]) where
  cfgd := (hsd_step_cfgd u).trans h.cfgd
  w_eq := (hsd_step_w u).trans h.w_eq
  l_eq := (hsd_step_l u).trans h.l_eq
  inv := hsd_inv_step h.inv h.cfgd hneed
  decode := by
    obtain ⟨d, hd, heq⟩ := h.decode
    refine ⟨d.push u.w.toNat u.litByte, sameWindow_step_of_lit hd hlit, fun future => ?_⟩
    rw [heq, remaining_step_of_lit hneed hlit, List.append_assoc, List.singleton_append]

theorem tracks_step_of_bits (h : Tracks w l u acc out) (hcopy : u.dstate ≠ .copy) (hlit : u.dstate ≠ .lit)
    (hneed : u.need ≤ u.avail) : Tracks w l u.step acc out where
  cfgd := (hsd_step_cfgd u).trans h.cfgd
  w_eq := (hsd_step_w u).trans h.w_eq
  l_eq := (hsd_step_l u).trans h.l_eq
  inv := hsd_inv_step h.inv h.cfgd hneed
  decode := by
    obtain ⟨d, hd, heq⟩ := h.decode
    obtain ⟨-, -, -, hwindow⟩ := hsd_step_kept u
    obtain ⟨hdict, hhead⟩ := hwindow hlit
    refine ⟨d, sameWindow_of_eq hd hdict hhead, fun future => ?_⟩
    rw [heq]
    by_cases hcntLo : u.dstate = .cntLo
    · rw [remaining_step_of_cntLo h.inv hneed hcntLo]
    · rw [remaining_step_of_readBits h.inv hneed hcopy hlit hcntLo]

/-- A run of HSD_POLL's loop outputs the next bytes of the decode, wherever it stops. -/
theorem tracks_pollRun {room : Nat} {v : Hsd} {st : Status} {bytes : List Byte}
    (hrun : HsdPollRun room u v st bytes) (h : Tracks w l u acc out) : Tracks w l v acc (out ++ bytes) := by
  induction hrun generalizing out with
  | copyFull | starved | litFull => rwa [List.append_nil]
  | copyByte hcopy _ ih =>
    rw [← List.singleton_append, ← List.append_assoc]
    exact ih (tracks_copyStep h hcopy)
  | litByte hlit hneed _ ih =>
    rw [← List.singleton_append, ← List.append_assoc]
    exact ih (tracks_step_of_lit h hlit hneed)
  | bits hcopy hlit hneed _ ih => exact ih (tracks_step_of_bits h hcopy hlit hneed)

/-- A unit whose state needs more bits than there are has nothing left to output: its token is cut short. -/
theorem remaining_eq_nil (hcopy : u.dstate ≠ .copy) (hstarved : u.avail < u.need) (d : HsWindow) :
    remaining u d (pendingBits u) = [] := by
  rw [remaining_of_ne_copy hcopy]
  have hlen := pendingBits_length u
  cases hd : u.dstate with
  | tag =>
    simp only [Hsd.need, hd] at hstarved
    rw [readBits, hd, List.eq_nil_of_length_eq_zero (l := pendingBits u) (by omega)]
    exact decodeBits_nil d
  | lit =>
    simp only [Hsd.need, hd] at hstarved
    rw [readBits, hd, List.singleton_append]
    exact decodeBits_literal_short d (by omega)
  | copy => exact absurd hd hcopy
  | idxHi | idxLo | cntHi | cntLo =>
    simp only [Hsd.need, hd] at hstarved
    rw [readBits, hd, List.cons_append]
    refine decodeBits_backref_short d ?_
    simp only [List.length_append, bitsOfNat_length, List.length_nil]
    omega

theorem tracks_done (h : Tracks w l u acc out) (hdone : u.done = true) : out = hsDecode w.toNat l.toNat acc := by
  obtain ⟨-, -, hcopy, hstarved⟩ := (hsd_done_iff u).mp hdone
  obtain ⟨d, -, heq⟩ := h.decode
  have hnow := heq []
  rw [List.append_nil, bitsOfBytes, List.append_nil, remaining_eq_nil hcopy hstarved, List.append_nil] at hnow
  exact hnow.symm

/-! ## Scripts of commands -/

theorem lastResponse_reply (t : State) (st : Status) (n : BitVec 32) (d : List Byte) :
    lastResponse (t.reply st n d) = ⟨st, n, d⟩ := by
  simp [lastResponse, State.reply]

theorem acceptedBy_hsdSink_reply (din : List Byte) (t : State) (st : Status) (n : BitVec 32) (d : List Byte) :
    acceptedBy (.hsdSink din) (t.reply st n d) = din.take n.toNat := by rw [acceptedBy, lastResponse_reply]

/-- HSD_SINK takes as many bytes into INQ as it counts, none where it answers MISUSE or FULL. -/
theorem tracks_exec_hsdSink (h : Tracks w l s.hsd acc out) (din : List Byte) :
    ∃ t, exec (.hsdSink din) s = .next t ∧ Tracks w l t.hsd (acc ++ acceptedBy (.hsdSink din) t) out := by
  by_cases hmisuse : s.hsd.cfgd = false ∨ s.hsd.finishing = true
  · refine ⟨_, (exec_hsdSink_of_misuse hmisuse din).trans (next_reply_eq_answer _ _ _ _).symm, ?_⟩
    rw [acceptedBy_hsdSink_reply, BitVec.toNat_ofNat, Nat.zero_mod, List.take_zero, List.append_nil]
    exact tracks_flags h s.hsd.finishing true
  by_cases hfull : s.hsd.inCap.toNat - s.hsd.inq.length = 0
  · refine ⟨_, (exec_hsdSink_of_full hmisuse hfull din).trans (next_reply_eq_answer _ _ _ _).symm, ?_⟩
    rw [acceptedBy_hsdSink_reply, BitVec.toNat_ofNat, Nat.zero_mod, List.take_zero, List.append_nil]
    exact h
  · have hlen := sinkTaken_length s.hsd.inCap s.hsd.inq din
    have hfits : (sinkTaken s.hsd.inCap s.hsd.inq din).length < 2 ^ 32 := by omega
    have htaken : din.take (sinkTaken s.hsd.inCap s.hsd.inq din).length = sinkTaken s.hsd.inCap s.hsd.inq din := by
      rw [hlen, sinkTaken_eq_take_min]
    refine ⟨_, (exec_hsdSink_of_room hmisuse hfull din).trans (next_reply_eq_answer _ _ _ _).symm, ?_⟩
    rw [acceptedBy_hsdSink_reply, BitVec.toNat_ofNat, Nat.mod_eq_of_lt hfits, htaken]
    exact tracks_sink h (by omega)

theorem tracks_exec_hsdPoll (h : Tracks w l s.hsd acc out) :
    ∃ t, exec .hsdPoll s = .next t ∧ Tracks w l t.hsd acc (out ++ outputBy .hsdPoll t) := by
  refine ⟨_, (exec_hsdPoll_of_configured h.cfgd).trans (next_reply_eq_answer _ _ _ _).symm, ?_⟩
  rw [outputBy, lastResponse_reply]
  exact tracks_pollRun (hsd_poll_run s.hsd) h

theorem tracks_exec_hsdFinish (h : Tracks w l s.hsd acc out) :
    ∃ t, exec .hsdFinish s = .next t ∧ Tracks w l t.hsd acc out :=
  ⟨_, (exec_hsdFinish_of_configured h.cfgd).trans (next_reply_eq_answer _ _ _ _).symm,
    tracks_flags h true s.hsd.misuse⟩

/-- However a script goes on from a unit on its way, it stays on its way. -/
theorem tracks_codecTrace {script : List Instr} (hscript : HsdScript script) (h : Tracks w l s.hsd acc out) :
    Tracks w l (codecTrace script s).final.hsd (acc ++ (codecTrace script s).accepted)
      (out ++ (codecTrace script s).output) := by
  induction script generalizing s acc out with
  | nil =>
    rw [codecTrace, List.append_nil, List.append_nil]
    exact h
  | cons i script ih =>
    have hnext : ∃ t, exec i s = .next t ∧ Tracks w l t.hsd (acc ++ acceptedBy i t) (out ++ outputBy i t) := by
      obtain ⟨din, rfl⟩ | rfl | rfl := hscript i List.mem_cons_self
      · simpa only [outputBy, List.append_nil] using tracks_exec_hsdSink h din
      · simpa only [acceptedBy, List.append_nil] using tracks_exec_hsdPoll h
      · simpa only [acceptedBy, outputBy, List.append_nil] using tracks_exec_hsdFinish h
    obtain ⟨t, hexec, ht⟩ := hnext
    have hrest := ih (fun j hj => hscript j (List.mem_cons_of_mem i hj)) ht
    rw [codecTrace, hexec]
    rwa [List.append_assoc, List.append_assoc] at hrest

end Tracks

/-- Settles O30: HSD_CFG starts a unit on its way to the decode, every command of the script keeps it there, and a unit
that is done has come to its end. -/
theorem hsdStreamIsPureDecode : Obligations.HsdStreamIsPureDecode := by
  intro w l i o s s' script hlegal hcfg hscript hdone
  rw [exec_hsdCfg_of_legal hlegal] at hcfg
  cases hcfg
  simpa only [List.nil_append] using tracks_done (tracks_codecTrace hscript (tracks_start hlegal)) hdone

end Sys2Proof.Proofs

/-! PROOFS of the statements about HSE_CFG and HSE_RESET (spec/43_heatshrink_encoder.md R213, R220): one equation per
outcome. -/

namespace Sys2Proof.Proofs

open Sys2Proof.Machine Sys2Proof.Claims

/-- Settles O32: a legal configuration is one that R213 accepts, and each outcome's equation. -/
theorem hseCfgRule : Obligations.HseCfgRule := by
  refine ⟨encodedCfg_of_decode fun imm din => by rw [decode, opcodeOf_cmd]; rfl, fun w l i o s => ?_⟩
  split
  next h => exact exec_hseCfg_of_legal (by unfold ConfigLegal; omega) s
  next h => exact exec_hseCfg_of_illegal (by have := w.isLt; unfold ConfigLegal; omega) s

theorem exec_hseReset_of_configured {s : State} (h : s.hse.cfgd = true) :
    exec .hseReset s = answer { s with hse := s.hse.encoderReset } .ok 0 [] := if_neg (by simp [h])

/-- Settles O36: the two outcomes of HSE_RESET; `encoder_reset()` is the unit that R220 spells out. -/
theorem hseResetRule : Obligations.HseResetRule := by
  refine ⟨encodedBare_of_decode fun imm din => by rw [decode, opcodeOf_cmd]; rfl, fun s => ?_⟩
  split
  next h => exact exec_hseReset_of_unconfigured h
  next h => exact exec_hseReset_of_configured (Bool.eq_true_of_not_eq_false h)

end Sys2Proof.Proofs

/-! PROOF that decoding what was encoded gives the input back (spec/43_heatshrink_encoder.md R225). The bytes of
`hs_encode` are the bits of its tokens and fewer than 8 zeros (`bitsOfBytes_packBits`); every token decodes to the bytes
it stands for, because the window holds the input up to the token (`HoldsInput`); the zeros are a backreference cut
short. -/

namespace Sys2Proof.Proofs

open Sys2Proof.Machine Sys2Proof.Claims

/-! ## Packing bits into bytes (spec/20_memory.md R75, spec/43_heatshrink_encoder.md R224) -/

theorem exists_bitsOfNat_eq (bits : List Bool) : ∃ v, v < 2 ^ bits.length ∧ bitsOfNat bits.length v = bits := by
  induction bits with
  | nil => exact ⟨0, Nat.one_pos, rfl⟩
  | cons b bits ih =>
    obtain ⟨v, hv, hbits⟩ := ih
    have hlow : (2 ^ bits.length * b.toNat + v) % 2 ^ bits.length = v := by
      rw [Nat.mul_add_mod, Nat.mod_eq_of_lt hv]
    have hhigh : (2 ^ bits.length * b.toNat + v) / 2 ^ bits.length = b.toNat := by
      rw [Nat.mul_add_div (Nat.two_pow_pos _), Nat.div_eq_of_lt hv, Nat.add_zero]
    refine ⟨2 ^ bits.length * b.toNat + v, ?_, ?_⟩
    · have := Nat.mul_le_mul_left (2 ^ bits.length) (Bool.toNat_le b)
      rw [List.length_cons, Nat.pow_succ]
      omega
    · rw [List.length_cons, bitsOfNat, Nat.testBit_eq_decide_div_mod_eq, hhigh, ← bitsOfNat_mod le_rfl, hlow, hbits]
      cases b <;> rfl

theorem packBits_bitsOfNat_eight (v : Nat) (rest : List Bool) :
    packBits (bitsOfNat 8 v ++ rest) = BitVec.ofNat 8 v :: packBits rest := by
  have hpack : packBits (bitsOfNat 8 v ++ rest) =
      BitVec.ofNat 8 (natOfBitsFrom 0 (bitsOfNat 8 v)) :: packBits rest := rfl
  have hbyte : BitVec.ofNat 8 (v % 2 ^ 8) = BitVec.ofNat 8 v := BitVec.eq_of_toNat_eq (Nat.mod_mod v (2 ^ 8))
  rw [hpack, natOfBitsFrom_bitsOfNat, Nat.zero_mul, Nat.zero_add, hbyte]

theorem packBits_bitsOfNat_short {n v : Nat} (hpos : 0 < n) (hshort : n < 8) (hv : v < 2 ^ n) :
    packBits (bitsOfNat n v) = [BitVec.ofNat 8 (v * 2 ^ (8 - n))] := by
  have hlen := bitsOfNat_length n v
  rw [packBits, natOfBitsFrom_bitsOfNat, Nat.zero_mul, Nat.zero_add, Nat.mod_eq_of_lt hv, hlen]
  · intro hnil
    rw [hnil, List.length_nil] at hlen
    omega
  · intro b7 b6 b5 b4 b3 b2 b1 b0 rest hlong
    rw [hlong] at hlen
    simp only [List.length_cons] at hlen
    omega

/-- The bits of packed bytes are the bits packed, and the zeros that complete the last byte. -/
theorem bitsOfBytes_packBits (bits : List Bool) :
    ∃ pad, pad < 8 ∧ bitsOfBytes (packBits bits) = bits ++ bitsOfNat pad 0 := by
  induction hn : bits.length using Nat.strong_induction_on generalizing bits with
  | _ n ih =>
    obtain hzero | hpos := Nat.eq_zero_or_pos n
    · rw [List.eq_nil_of_length_eq_zero (hn.trans hzero)]
      exact ⟨0, by decide, rfl⟩
    obtain hshort | hlong := Nat.lt_or_ge n 8
    · obtain ⟨v, hv, hbits⟩ := exists_bitsOfNat_eq bits
      rw [hn] at hv hbits
      have hbyte : v * 2 ^ (8 - n) < 2 ^ 8 := by
        rw [← Nat.add_sub_of_le hshort.le, Nat.pow_add, Nat.add_sub_of_le hshort.le]
        exact Nat.mul_lt_mul_of_pos_right hv (Nat.two_pow_pos _)
      refine ⟨8 - n, by omega, ?_⟩
      rw [← hbits, packBits_bitsOfNat_short hpos hshort hv, bitsOfBytes, bitsOfBytes, List.append_nil,
        BitVec.toNat_ofNat, Nat.mod_eq_of_lt hbyte]
      have hsplit := bitsOfNat_add n (8 - n) (v * 2 ^ (8 - n))
      rw [Nat.add_sub_of_le hshort.le, Nat.mul_div_cancel _ (Nat.two_pow_pos _)] at hsplit
      rw [hsplit, ← bitsOfNat_mod le_rfl (v * 2 ^ (8 - n)), Nat.mul_mod_left]
    · obtain ⟨v, hv, hbits⟩ := exists_bitsOfNat_eq (bits.take 8)
      rw [List.length_take_of_le (by omega)] at hv hbits
      obtain ⟨pad, hpad, hrest⟩ := ih (n - 8) (by omega) (bits.drop 8) (by rw [List.length_drop, hn])
      refine ⟨pad, hpad, ?_⟩
      rw [← List.take_append_drop 8 bits, ← hbits, packBits_bitsOfNat_eight, bitsOfBytes, BitVec.toNat_ofNat,
        Nat.mod_eq_of_lt hv, hrest, List.append_assoc]

/-! ## What the match search finds (R216) -/

theorem matchLen_agrees {S : Nat → Byte} {p o m : Nat} (n : Nat) (h : Agrees S p o m) :
    Agrees S p o (matchLen S p o n m) := by
  induction n generalizing m with
  | zero => exact h
  | succ n ih =>
    rw [matchLen]
    split
    next heq =>
      refine ih fun j hj => ?_
      obtain hlt | rfl := Nat.lt_succ_iff_lt_or_eq.mp hj
      · exact h j hlt
      · exact heq
    next => exact h

theorem findLoop_agrees {S : Nat → Byte} {p maxlen : Nat} (n o : Nat) {best : Match}
    (h : Agrees S p best.off best.len) :
    Agrees S p (findLoop S p maxlen n o best).off (findLoop S p maxlen n o best).len := by
  induction n generalizing o best with
  | zero => exact h
  | succ n ih =>
    rw [findLoop]
    refine ih (o + 1) ?_
    rw [Match.orBetter]
    split
    next => exact matchLen_agrees maxlen fun j hj => absurd hj (Nat.not_lt_zero j)
    next => exact h

theorem findMatch_agrees (w : Nat) (S : Nat → Byte) (p maxlen : Nat) :
    Agrees S p (findMatch w S p maxlen).off (findMatch w S p maxlen).len :=
  findLoop_agrees (2 ^ w) 1 fun j hj => absurd hj (Nat.not_lt_zero j)

/-! ## The pure encoder without its fuel (R214) -/

theorem zeroHistory_of_lt {w i : Nat} (h : i < 2 ^ w) (x : List Byte) : zeroHistory w x i = 0#8 := if_pos h

theorem zeroHistory_add (w : Nat) (x : List Byte) (k : Nat) : zeroHistory w x (2 ^ w + k) = x.getD k 0#8 := by
  rw [zeroHistory, if_neg (by omega), Nat.add_sub_cancel_left]

/-- The tokens of `hs_encode` from byte `k` of the input on, with as much fuel as the bytes left need. -/
def encodeBits (w l c : Nat) (x : List Byte) (k : Nat) : List Bool := hsEncodeLoop w l c x (x.length - k) k

theorem hsEncode_eq_packBits (w l c : Nat) (x : List Byte) : hsEncode w l c x = packBits (encodeBits w l c x 0) := rfl

section PureEncode

variable {w l c : Nat} {x : List Byte} {k : Nat}

/-- Fuel beyond the number of bytes left changes nothing. -/
theorem hsEncodeLoop_fuel {fuel fuel' : Nat} (h : x.length - k ≤ fuel) (h' : x.length - k ≤ fuel') :
    hsEncodeLoop w l c x fuel k = hsEncodeLoop w l c x fuel' k := by
  induction fuel generalizing fuel' k with
  | zero =>
    obtain _ | fuel' := fuel'
    · rfl
    · rw [hsEncodeLoop, hsEncodeLoop, if_neg (by omega)]
  | succ fuel ih =>
    obtain _ | fuel' := fuel'
    · rw [hsEncodeLoop, hsEncodeLoop, if_neg (by omega)]
    · rw [hsEncodeLoop, hsEncodeLoop]
      split
      next =>
        split
        next hmatch => rw [ih (fuel' := fuel') (by omega) (by omega)]
        next => rw [ih (fuel' := fuel') (by omega) (by omega)]
      next => rfl

theorem encodeBits_end (h : x.length ≤ k) : encodeBits w l c x k = [] := by
  rw [encodeBits, Nat.sub_eq_zero_of_le h, hsEncodeLoop]

theorem encodeBits_backref (hk : k < x.length) (hmatch : breakEven w l < (hsBestMatch w l c x k).len) :
    encodeBits w l c x k =
      backrefBits w l (hsBestMatch w l c x k) ++ encodeBits w l c x (k + (hsBestMatch w l c x k).len) := by
  obtain ⟨fuel, hfuel⟩ : ∃ fuel, x.length - k = fuel + 1 := ⟨x.length - k - 1, by omega⟩
  rw [encodeBits, hfuel, hsEncodeLoop, if_pos hk, if_pos hmatch, encodeBits,
    hsEncodeLoop_fuel (fuel := fuel) (by omega) le_rfl]

theorem encodeBits_literal (hk : k < x.length) (hmatch : ¬ breakEven w l < (hsBestMatch w l c x k).len) :
    encodeBits w l c x k = literalBits (x.getD k 0#8) ++ encodeBits w l c x (k + 1) := by
  obtain ⟨fuel, hfuel⟩ : ∃ fuel, x.length - k = fuel + 1 := ⟨x.length - k - 1, by omega⟩
  rw [encodeBits, hfuel, hsEncodeLoop, if_pos hk, if_neg hmatch, encodeBits,
    hsEncodeLoop_fuel (fuel := fuel) (by omega) le_rfl]

/-- A match is short enough for its length field and for the input. -/
theorem hsBestMatch_len_le (w l c : Nat) (x : List Byte) (k : Nat) :
    (hsBestMatch w l c x k).len ≤ 2 ^ l ∧ (hsBestMatch w l c x k).len ≤ x.length - k := by
  have ⟨hlen, _⟩ := findMatch_bounds w (zeroHistory w x) (2 ^ w + k) (min (min (2 ^ l) c) (x.length - k))
  exact ⟨by rw [hsBestMatch]; omega, by rw [hsBestMatch]; omega⟩

theorem hsBestMatch_off_bounds (hlen : 0 < (hsBestMatch w l c x k).len) :
    1 ≤ (hsBestMatch w l c x k).off ∧ (hsBestMatch w l c x k).off ≤ 2 ^ w := by
  have ⟨_, hpos, hmax⟩ := findMatch_bounds w (zeroHistory w x) (2 ^ w + k) (min (min (2 ^ l) c) (x.length - k))
  exact ⟨hpos hlen, hmax⟩

theorem hsBestMatch_agrees (w l c : Nat) (x : List Byte) (k : Nat) :
    Agrees (zeroHistory w x) (2 ^ w + k) (hsBestMatch w l c x k).off (hsBestMatch w l c x k).len :=
  findMatch_agrees w _ _ _

end PureEncode

/-! ## The window of the decoder (R183) -/

/-- One byte further on, each byte of the window is one offset further back. -/
theorem back_push {w o : Nat} {d : HsWindow} (hwf : Memory.wf (2 ^ w) d.dict) (c : Byte) (hpos : 1 ≤ o)
    (hmax : o ≤ 2 ^ w) : (d.push w c).back w o = if o = 1 then c else d.back w (o - 1) := by
  simp only [HsWindow.back, HsWindow.push]
  split
  next hone =>
    rw [hone, Nat.add_right_comm, Nat.add_sub_cancel, Nat.add_mod_right]
    exact memRead_memWrite_same hwf.1
  next hne =>
    rw [show d.head + 1 + 2 ^ w - o = d.head + 2 ^ w - (o - 1) by omega]
    refine memRead_memWrite_other fun hmod => ?_
    have hdvd : 2 ^ w ∣ d.head + 2 ^ w - (d.head + 2 ^ w - (o - 1)) :=
      (Nat.modEq_iff_dvd' (Nat.sub_le _ _)).mp (hmod.trans (Nat.add_mod_right _ _).symm)
    have := Nat.le_of_dvd (by omega) hdvd
    omega

/-- The window after the first `k` bytes of `x` have been output: it reads back as the zeros and `x`. -/
structure HoldsInput (w : Nat) (x : List Byte) (k : Nat) (d : HsWindow) : Prop where
  wf : Memory.wf (2 ^ w) d.dict
  back : ∀ o, 1 ≤ o → o ≤ 2 ^ w → d.back w o = zeroHistory w x (2 ^ w + k - o)

section HoldsInput

variable {w l k : Nat} {x : List Byte} {d : HsWindow}

theorem holdsInput_start (w : Nat) (x : List Byte) : HoldsInput w x 0 ⟨[], 0⟩ where
  wf := Memory.wf_nil _
  back o hpos _ := by
    rw [zeroHistory_of_lt (by omega)]
    rfl

theorem holdsInput_push (h : HoldsInput w x k d) : HoldsInput w x (k + 1) (d.push w (x.getD k 0#8)) where
  wf := Memory.wf_memWrite h.wf (Nat.mod_lt _ (Nat.two_pow_pos w))
  back o hpos hmax := by
    rw [back_push h.wf _ hpos hmax]
    split
    next hone => rw [hone, ← Nat.add_assoc, Nat.add_sub_cancel, zeroHistory_add]
    next hne => rw [h.back (o - 1) (by omega) (by omega)]; congr 1; omega

/-- A copy of bytes that agree with the input is the input. -/
theorem hsCopyBytes_of_agrees {o n : Nat} (h : HoldsInput w x k d) (hpos : 1 ≤ o) (hmax : o ≤ 2 ^ w)
    (hfit : k + n ≤ x.length) (hagrees : Agrees (zeroHistory w x) (2 ^ w + k) o n) :
    hsCopyBytes w o n d = (x.drop k).take n ∧ HoldsInput w x (k + n) (hsCopyWindow w o n d) := by
  induction n generalizing k d with
  | zero => exact ⟨List.take_zero.symm, h⟩
  | succ n ih =>
    have hbyte : d.back w o = x.getD k 0#8 := by
      rw [h.back o hpos hmax, ← zeroHistory_add]
      exact hagrees 0 (Nat.succ_pos n)
    have hnext : Agrees (zeroHistory w x) (2 ^ w + (k + 1)) o n := fun j hj => by
      have := hagrees (j + 1) (Nat.succ_lt_succ hj)
      rwa [show 2 ^ w + k - o + (j + 1) = 2 ^ w + (k + 1) - o + j by omega,
        show 2 ^ w + k + (j + 1) = 2 ^ w + (k + 1) + j by omega] at this
    obtain ⟨hbytes, hwindow⟩ := ih (holdsInput_push h) (by omega) hnext
    rw [hsCopyBytes, hsCopyWindow, hbyte, hbytes, List.drop_eq_getElem_cons (by omega : k < x.length),
      List.take_succ_cons, List.getD_eq_getElem _ _ (by omega)]
    rw [List.getD_eq_getElem _ _ (by omega)] at hwindow
    exact ⟨rfl, by rwa [← Nat.add_assoc, Nat.add_right_comm]⟩

/-! ## The round trip (R225) -/

/-- The zeros that complete the last byte are too few for a backreference. -/
theorem decodeBits_padding {pad : Nat} (hpad : pad < 8) (hwl : 7 ≤ w + l) (d : HsWindow) :
    decodeBits w l (bitsOfNat pad 0) d = [] := by
  cases pad with
  | zero => exact decodeBits_nil d
  | succ pad =>
    rw [bitsOfNat, Nat.zero_testBit]
    exact decodeBits_backref_short d (by rw [bitsOfNat_length]; omega)

theorem decodeBits_encodeBits {c pad : Nat} (hpad : pad < 8) (hwl : 7 ≤ w + l) (h : HoldsInput w x k d) :
    decodeBits w l (encodeBits w l c x k ++ bitsOfNat pad 0) d = x.drop k := by
  induction hn : x.length - k using Nat.strong_induction_on generalizing k d with
  | _ n ih =>
    obtain hend | hk := le_or_gt x.length k
    · rw [encodeBits_end hend, List.nil_append, decodeBits_padding hpad hwl, List.drop_of_length_le hend]
    by_cases hmatch : breakEven w l < (hsBestMatch w l c x k).len
    · obtain ⟨hlen, hfit⟩ := hsBestMatch_len_le w l c x k
      obtain ⟨hpos, hmax⟩ := hsBestMatch_off_bounds (Nat.zero_lt_of_lt hmatch)
      obtain ⟨hbytes, hwindow⟩ := hsCopyBytes_of_agrees h hpos hmax (by omega) (hsBestMatch_agrees w l c x k)
      rw [encodeBits_backref hk hmatch, backrefBits, List.append_assoc, List.cons_append, List.append_assoc,
        decodeBits_backref d (by omega) (by omega), Nat.sub_add_cancel hpos, Nat.sub_add_cancel (by omega)]
      rw [ih _ (by omega) hwindow rfl, hbytes, ← List.drop_drop, List.take_append_drop]
    · rw [encodeBits_literal hk hmatch, literalBits, List.append_assoc, List.cons_append,
        decodeBits_literal d (BitVec.isLt _), BitVec.ofNat_toNat, BitVec.setWidth_eq,
        ih _ (by omega) (holdsInput_push h) rfl, List.drop_eq_getElem_cons hk, List.getD_eq_getElem _ _ hk]

end HoldsInput

/-- Settles O39: every token decodes to the bytes it stands for, and the completed last byte adds none. -/
theorem encodeDecodeRoundTrip : Obligations.EncodeDecodeRoundTrip := by
  intro w l c x hw _ hl _ _
  obtain ⟨pad, hpad, hbits⟩ := bitsOfBytes_packBits (encodeBits w l c x 0)
  rw [hsDecode_eq_decodeBits, hsEncode_eq_packBits, hbits,
    decodeBits_encodeBits hpad (by omega) (holdsInput_start w x), List.drop_zero]

end Sys2Proof.Proofs

/-! PROOF that streaming encode is pure encode (spec/43_heatshrink_encoder.md R223), by a simulation. A unit between two
commands stands for the rest of an encode: its history and queue show the input from the next token on (`ShowsInput`),
and what it has output, its pending bits and the tokens to come pack to the encode of the whole input (`EncodeTracks`).
The scan trigger (R219) lets a token be chosen only when no byte accepted later could change it. -/

namespace Sys2Proof.Proofs

open Sys2Proof.Machine Sys2Proof.Claims

/-! ## The commands of a configured unit (R215, R221, R222) -/

theorem exec_hseSink_of_full {s : State} (h : ¬ (s.hse.cfgd = false ∨ s.hse.finishing = true))
    (hroom : s.hse.inCap.toNat - s.hse.q.length = 0) (din : List Byte) :
    exec (.hseSink din) s = answer s .full 0 [] :=
  (if_neg h).trans (if_pos hroom)

theorem exec_hseSink_of_room {s : State} (h : ¬ (s.hse.cfgd = false ∨ s.hse.finishing = true))
    (hroom : s.hse.inCap.toNat - s.hse.q.length ≠ 0) (din : List Byte) :
    exec (.hseSink din) s =
      answer { s with hse := { s.hse with q := s.hse.q ++ sinkTaken s.hse.inCap s.hse.q din } }
        .ok (sinkTaken s.hse.inCap s.hse.q din).length [] :=
  (if_neg h).trans (if_neg hroom)

theorem exec_hsePoll_of_configured {s : State} (h : s.hse.cfgd = true) :
    exec .hsePoll s =
      answer { s with hse := s.hse.poll.unit } s.hse.poll.status s.hse.poll.dout.length s.hse.poll.dout :=
  if_neg (by simp [h])

theorem exec_hseFinish_of_configured {s : State} (h : s.hse.cfgd = true) :
    exec .hseFinish s =
      answer { s with hse := { s.hse with finishing := true } }
        (if { s.hse with finishing := true }.done then .done else .more) 0 [] :=
  if_neg (by simp [h])

/-! ## `put_bits` (R217) -/

/-- `v` is `u` with `bits` put after its pending bits. -/
structure Appends (u v : Hse) (bits : List Bool) : Prop where
  nbits : v.nbits.toNat = u.nbits.toNat + bits.length
  obits_lt : v.obits.toNat < 2 ^ v.nbits.toNat
  pending : pendingOut v = pendingOut u ++ bits

section Appends

variable {u v : Hse} {bits : List Bool}

theorem appends_nil (h : u.obits.toNat < 2 ^ u.nbits.toNat) : Appends u u [] :=
  ⟨rfl, h, (List.append_nil _).symm⟩

/-- The bits put in stand below the pending ones, shifted up to make room. -/
theorem putBits_obits_toNat {x k : Nat} (hobits : v.obits.toNat < 2 ^ v.nbits.toNat)
    (hroom : v.nbits.toNat + k ≤ 37) (hx : x < 2 ^ k) : (v.putBits x k).obits.toNat = 2 ^ k * v.obits.toNat + x := by
  have hshifted : v.obits.toNat * 2 ^ k < 2 ^ 37 :=
    calc v.obits.toNat * 2 ^ k
        < 2 ^ v.nbits.toNat * 2 ^ k := Nat.mul_lt_mul_of_pos_right hobits (Nat.two_pow_pos k)
      _ = 2 ^ (v.nbits.toNat + k) := (Nat.pow_add 2 _ k).symm
      _ ≤ 2 ^ 37 := Nat.pow_le_pow_right two_pos hroom
  have hfits : x < 2 ^ 37 := lt_of_lt_of_le hx (Nat.pow_le_pow_right two_pos (by omega))
  rw [Hse.putBits_obits, BitVec.toNat_or, BitVec.toNat_shiftLeft, BitVec.toNat_ofNat, Nat.shiftLeft_eq,
    Nat.mod_eq_of_lt hshifted, Nat.mod_eq_of_lt hfits, Nat.mul_comm, Nat.two_pow_add_eq_or_of_lt hx]

theorem appends_putBits {x k : Nat} (h : Appends u v bits) (hroom : u.nbits.toNat + bits.length + k ≤ 37)
    (hx : x < 2 ^ k) : Appends u (v.putBits x k) (bits ++ bitsOfNat k x) := by
  obtain ⟨hnbits, hobits, hpending⟩ := h
  have hn : (v.putBits x k).nbits.toNat = v.nbits.toNat + k := by
    rw [Hse.putBits_nbits, BitVec.toNat_add, BitVec.toNat_ofNat]
    omega
  have ho := putBits_obits_toNat hobits (by omega) hx
  have hhigh : (2 ^ k * v.obits.toNat + x) / 2 ^ k = v.obits.toNat := by
    rw [Nat.mul_add_div (Nat.two_pow_pos k), Nat.div_eq_of_lt hx, Nat.add_zero]
  have hlow : (2 ^ k * v.obits.toNat + x) % 2 ^ k = x := by rw [Nat.mul_add_mod, Nat.mod_eq_of_lt hx]
  constructor
  case nbits => rw [hn, hnbits, List.length_append, bitsOfNat_length, Nat.add_assoc]
  case obits_lt =>
    rw [hn, ho, Nat.pow_add, ← Nat.div_lt_iff_lt_mul (Nat.two_pow_pos k), hhigh]
    exact hobits
  case pending =>
    rw [pendingOut, hn, ho, bitsOfNat_add, hhigh, ← bitsOfNat_mod le_rfl (2 ^ k * _ + x), hlow, ← List.append_assoc,
      ← hpending, pendingOut]

end Appends

/-! ## The bytes output (R218) -/

section OutputBytes

variable {u : Hse}

theorem afterByte_obits_toNat (u : Hse) :
    u.afterByte.obits.toNat = u.obits.toNat % 2 ^ (u.nbits.toNat - 8) := by
  have := Nat.mod_le u.obits.toNat (2 ^ (u.nbits.toNat - 8))
  rw [Hse.afterByte_obits, BitVec.toNat_ofNat, Nat.mod_eq_of_lt (by omega)]

theorem afterByte_nbits_toNat (h : 8 ≤ u.nbits.toNat) : u.afterByte.nbits.toNat = u.nbits.toNat - 8 := by
  rw [Hse.afterByte_nbits, BitVec.toNat_sub, BitVec.toNat_ofNat]
  omega

/-- The next output byte packs the 8 oldest of the pending bits. -/
theorem packBits_afterByte (h : 8 ≤ u.nbits.toNat) (rest : List Bool) :
    packBits (pendingOut u ++ rest) = u.outByte :: packBits (pendingOut u.afterByte ++ rest) := by
  have hsplit := bitsOfNat_add 8 (u.nbits.toNat - 8) u.obits.toNat
  rw [Nat.add_sub_of_le h] at hsplit
  rw [pendingOut, hsplit, List.append_assoc, packBits_bitsOfNat_eight, pendingOut, afterByte_nbits_toNat h,
    afterByte_obits_toNat, bitsOfNat_mod le_rfl]
  rfl

/-- The final partial byte packs the pending bits that are left. -/
theorem packBits_afterLast (hpos : 0 < u.nbits.toNat) (hshort : u.nbits.toNat < 8)
    (hobits : u.obits.toNat < 2 ^ u.nbits.toNat) : packBits (pendingOut u) = [u.lastByte] :=
  packBits_bitsOfNat_short hpos hshort hobits

end OutputBytes

/-! ## The history and the queue as one sequence (R217, spec/20_memory.md R72) -/

theorem memRead_memShiftAll {size : Nat} {m : Memory} (hs : 0 < size) (h : Memory.wf size m) (bs : List Byte) {a : Nat}
    (ha : a < size) : memRead (memShiftAll size m bs) a =
      if a + bs.length < size then memRead m (a + bs.length) else bs.getD (a + bs.length - size) 0 := by
  induction bs generalizing m with
  | nil => rw [List.length_nil, Nat.add_zero, if_pos ha]; rfl
  | cons b bs ih =>
    have hshift : memShiftAll size m (b :: bs) = memShiftAll size (memShift size m b) bs := rfl
    rw [hshift, ih (Memory.wf_memShift hs h), memRead_memShift hs h, List.length_cons]
    obtain hlt | heq | hgt := lt_trichotomy (a + bs.length) (size - 1)
    · rw [if_pos (by omega), if_neg (by omega), if_pos (by omega), Nat.add_assoc]
    · rw [if_pos (by omega), if_pos heq, if_neg (by omega), show a + (bs.length + 1) - size = 0 by omega]
      rfl
    · rw [if_neg (by omega), if_neg (by omega),
        show a + (bs.length + 1) - size = a + bs.length - size + 1 by omega]
      rfl

theorem histThenQueue_of_lt {u : Hse} {a : Nat} (h : a < 2 ^ u.w.toNat) : histThenQueue u a = memRead u.hist a :=
  if_pos h

theorem histThenQueue_of_le {u : Hse} {a : Nat} (h : 2 ^ u.w.toNat ≤ a) :
    histThenQueue u a = u.q.getD (a - 2 ^ u.w.toNat) 0 := if_neg (Nat.not_lt_of_le h)

/-- Moving bytes from the queue into the history moves the sequence of both past them. -/
theorem histThenQueue_advance {u : Hse} (hwf : Memory.wf u.size u.hist) {n : Nat} (hn : n ≤ u.q.length) (a : Nat) :
    histThenQueue (u.advance n) a = histThenQueue u (a + n) := by
  have hlen : (u.q.take n).length = n := List.length_take_of_le hn
  obtain hhist | hqueue := Nat.lt_or_ge a (2 ^ u.w.toNat)
  · rw [histThenQueue_of_lt (u := u.advance n) hhist, Hse.advance_hist,
      memRead_memShiftAll (size := u.size) (Nat.two_pow_pos _) hwf _ hhist, hlen, Hse.size]
    split
    next hold => exact (histThenQueue_of_lt hold).symm
    next hnew =>
      rw [histThenQueue_of_le (Nat.le_of_not_lt hnew), List.getD_eq_getElem?_getD,
        List.getElem?_take_of_lt (by omega), ← List.getD_eq_getElem?_getD]
  · rw [histThenQueue_of_le (u := u.advance n) hqueue, histThenQueue_of_le (by omega), Hse.advance_q, Hse.advance_w,
      List.getD_eq_getElem?_getD, List.getElem?_drop, ← List.getD_eq_getElem?_getD,
      show n + (a - 2 ^ u.w.toNat) = a + n - 2 ^ u.w.toNat by omega]

/-- Bytes accepted come after those in the queue. -/
theorem histThenQueue_sink_old {u : Hse} {a : Nat} (h : a < 2 ^ u.w.toNat + u.q.length) (bytes : List Byte) :
    histThenQueue { u with q := u.q ++ bytes } a = histThenQueue u a := by
  obtain hhist | hqueue := Nat.lt_or_ge a (2 ^ u.w.toNat)
  · exact (histThenQueue_of_lt (u := { u with q := u.q ++ bytes }) hhist).trans (histThenQueue_of_lt hhist).symm
  · rw [histThenQueue_of_le (u := u) hqueue, ← List.getD_append u.q bytes 0 _ (by omega)]
    exact histThenQueue_of_le (u := { u with q := u.q ++ bytes }) hqueue

theorem histThenQueue_sink_new (u : Hse) (bytes : List Byte) (j : Nat) :
    histThenQueue { u with q := u.q ++ bytes } (2 ^ u.w.toNat + u.q.length + j) = bytes.getD j 0 := by
  rw [histThenQueue_of_le (by rw [Nat.add_assoc]; exact Nat.le_add_right _ _), Nat.add_assoc, Nat.add_sub_cancel_left,
    List.getD_append_right _ _ _ _ (Nat.le_add_right _ _), Nat.add_sub_cancel_left]

/-! ## `encode_token()` (R217) -/

section Token

variable {u : Hse}

theorem tokenMatch_len_le (u : Hse) : (tokenMatch u).len ≤ 2 ^ u.l.toNat ∧ (tokenMatch u).len ≤ u.q.length := by
  have ⟨hlen, _⟩ := findMatch_bounds u.w.toNat (histThenQueue u) (2 ^ u.w.toNat) (min (2 ^ u.l.toNat) u.q.length)
  exact ⟨by rw [tokenMatch]; omega, by rw [tokenMatch]; omega⟩

theorem tokenMatch_off_le (u : Hse) : (tokenMatch u).off ≤ 2 ^ u.w.toNat := by
  have ⟨_, _, hmax⟩ := findMatch_bounds u.w.toNat (histThenQueue u) (2 ^ u.w.toNat) (min (2 ^ u.l.toNat) u.q.length)
  exact hmax

theorem tokenBytes_bounds (hq : u.q ≠ []) : 1 ≤ tokenBytes u ∧ tokenBytes u ≤ u.q.length := by
  have hpos := List.length_pos_iff.mpr hq
  have ⟨_, hmatch⟩ := tokenMatch_len_le u
  rw [tokenBytes]
  split <;> omega

theorem tokenBits_length_le (hl : u.l.toNat < u.w.toNat) : (tokenBits u).length ≤ 30 := by
  have hw := u.w.isLt
  rw [tokenBits]
  split <;> simp only [List.length_append, List.length_singleton, bitsOfNat_length] <;> omega

/-- `encode_token()` puts the token's bits after the pending ones, and then moves its bytes. -/
theorem hse_encodeToken_form (h : u.Inv) (hcfgd : u.cfgd = true) (hbits : u.nbits.toNat < 8) :
    ∃ nbits obits, Appends u { u with nbits := nbits, obits := obits } (tokenBits u) ∧
      u.encodeToken = { u with nbits := nbits, obits := obits }.advance (tokenBytes u) := by
  have hw := u.w.isLt
  have hl : u.l.toNat < u.w.toNat := by obtain ⟨-, -, hl, -⟩ := h.configured hcfgd; exact hl
  have hnil := appends_nil h.obits_lt
  by_cases hmatch : UsesMatch u
  · have ⟨hlen, _⟩ := tokenMatch_len_le u
    have hoff := tokenMatch_off_le u
    have hlenPos : 0 < (tokenMatch u).len := Nat.zero_lt_of_lt hmatch
    have hoffPos := Nat.two_pow_pos u.w.toNat
    rw [tokenBits, if_pos hmatch, tokenBytes, if_pos hmatch]
    have htag := appends_putBits hnil (x := 0) (k := 1) (by simp only [List.length_nil]; omega) (by decide)
    have hput := appends_putBits htag (x := (tokenMatch u).off - 1) (k := u.w.toNat)
      (by simp only [List.length_append, bitsOfNat_length, List.length_nil]; omega) (by omega)
    have hall := appends_putBits hput (x := (tokenMatch u).len - 1) (k := u.l.toNat)
      (by simp only [List.length_append, bitsOfNat_length, List.length_nil]; omega) (by omega)
    exact ⟨_, _, hall, if_pos hmatch⟩
  · rw [tokenBits, if_neg hmatch, tokenBytes, if_neg hmatch]
    have htag := appends_putBits hnil (x := 1) (k := 1) (by simp only [List.length_nil]; omega) (by decide)
    have hall := appends_putBits htag (x := (u.q.headD 0).toNat) (k := 8)
      (by simp only [List.length_append, bitsOfNat_length, List.length_nil]; omega) (BitVec.isLt _)
    exact ⟨_, _, hall, if_neg hmatch⟩

end Token

/-! ## The invariant of HSE along HSE_POLL's loop (spec/10_state.md R34 to R41) -/

section Invariant

variable {u : Hse} (h : u.Inv) (hcfgd : u.cfgd = true)

include h hcfgd

theorem hse_inv_flags (f m : Bool) : { u with finishing := f, misuse := m }.Inv :=
  { h with unconfigured := fun hno => absurd (hcfgd.symm.trans hno) nofun }

theorem hse_inv_sink {bytes : List Byte} (hroom : u.q.length + bytes.length ≤ u.inCap.toNat) :
    { u with q := u.q ++ bytes }.Inv :=
  { h with
    unconfigured := fun hno => absurd (hcfgd.symm.trans hno) nofun
    queue := List.length_append.trans_le hroom }

theorem hse_inv_bits {nbits : BitVec 6} {obits : BitVec 37} (hn : nbits.toNat ≤ 37)
    (ho : obits.toNat < 2 ^ nbits.toNat) : { u with nbits := nbits, obits := obits }.Inv :=
  { h with
    unconfigured := fun hno => absurd (hcfgd.symm.trans hno) nofun
    nbits_le := hn
    obits_lt := ho }

theorem hse_inv_advance (n : Nat) : (u.advance n).Inv :=
  { h with
    unconfigured := fun hno => absurd (hcfgd.symm.trans hno) nofun
    queue := (List.drop_sublist n u.q).length_le.trans h.queue
    hist_wf := Memory.wf_memShiftAll (Nat.two_pow_pos _) h.hist_wf }

theorem hse_inv_afterByte (h8 : 8 ≤ u.nbits.toNat) : u.afterByte.Inv := by
  have hn := afterByte_nbits_toNat h8
  have hle : u.afterByte.nbits.toNat ≤ 37 := by
    have := h.nbits_le
    omega
  have hlt : u.afterByte.obits.toNat < 2 ^ u.afterByte.nbits.toNat := by
    rw [hn, afterByte_obits_toNat]
    exact Nat.mod_lt _ (Nat.two_pow_pos _)
  exact hse_inv_bits h hcfgd hle hlt

theorem hse_inv_afterLast : u.afterLast.Inv := hse_inv_bits h hcfgd (Nat.zero_le _) Nat.one_pos

theorem hse_inv_encodeToken (hbits : u.nbits.toNat < 8) : u.encodeToken.Inv := by
  obtain ⟨nbits, obits, happ, hform⟩ := hse_encodeToken_form h hcfgd hbits
  have hlen : (tokenBits u).length ≤ 30 := by
    obtain ⟨-, -, hl, -⟩ := h.configured hcfgd
    exact tokenBits_length_le hl
  have hnbits : nbits.toNat = u.nbits.toNat + (tokenBits u).length := happ.nbits
  have hle : nbits.toNat ≤ 37 := by omega
  rw [hform]
  exact hse_inv_advance (hse_inv_bits h hcfgd hle happ.obits_lt) hcfgd _

end Invariant

/-! ## The token is the one `hs_encode` chooses (R214, R217) -/

section Shift

variable {S S' : Nat → Byte} {p k maxlen : Nat} (hS : ∀ a, a < p + maxlen → S a = S' (k + a))

include hS

/-- A match is counted within the bytes before `p` and the `maxlen` bytes from `p` on. -/
theorem matchLen_shift {o n m : Nat} (ho : o ≤ p) (hn : m + n ≤ maxlen) :
    matchLen S p o n m = matchLen S' (k + p) o n m := by
  induction n generalizing m with
  | zero => rfl
  | succ n ih =>
    rw [matchLen, matchLen, hS (p - o + m) (by omega), hS (p + m) (by omega),
      show k + (p - o + m) = k + p - o + m by omega, Nat.add_assoc, ih (by omega)]

theorem findLoop_shift {n o : Nat} (ho : o + n ≤ p + 1) (best : Match) :
    findLoop S p maxlen n o best = findLoop S' (k + p) maxlen n o best := by
  induction n generalizing o best with
  | zero => rfl
  | succ n ih => rw [findLoop, findLoop, matchLen_shift hS (by omega) (by omega), ih (by omega)]

theorem findMatch_shift {w : Nat} (hp : 2 ^ w ≤ p) : findMatch w S p maxlen = findMatch w S' (k + p) maxlen :=
  findLoop_shift hS (by omega) _

end Shift

theorem zeroHistory_append {w i : Nat} {x : List Byte} (h : i < 2 ^ w + x.length) (y : List Byte) :
    zeroHistory w (x ++ y) i = zeroHistory w x i := by
  rw [zeroHistory, zeroHistory]
  split
  next => rfl
  next => rw [List.getD_append _ _ _ _ (by omega)]

theorem zeroHistory_append_new (w : Nat) (x y : List Byte) (j : Nat) :
    zeroHistory w (x ++ y) (2 ^ w + x.length + j) = y.getD j 0#8 := by
  rw [Nat.add_assoc, zeroHistory_add, List.getD_append_right _ _ _ _ (Nat.le_add_right _ _), Nat.add_sub_cancel_left]

/-- The history and the queue hold the zeros and the bytes `acc` accepted, from byte `k` on to their end. -/
structure ShowsInput (u : Hse) (acc : List Byte) (k : Nat) : Prop where
  length : k + u.q.length = acc.length
  bytes : ∀ a, histThenQueue u a = zeroHistory u.w.toNat acc (k + a)

/-- `can_scan()` (R219). -/
theorem hse_canScan_iff (u : Hse) :
    u.canScan = true ↔
      1 ≤ u.q.length ∧ (u.finishing = true ∨ min (2 ^ u.l.toNat) u.inCap.toNat ≤ u.q.length) := by
  simp [Hse.canScan]

section ShowsInput

variable {u : Hse} {acc future : List Byte} {k : Nat}

theorem showsInput_sink (h : ShowsInput u acc k) (bytes : List Byte) :
    ShowsInput { u with q := u.q ++ bytes } (acc ++ bytes) k where
  length := by
    rw [List.length_append, List.length_append, ← Nat.add_assoc, h.length]
  bytes a := by
    have hlen := h.length
    obtain hold | hnew := Nat.lt_or_ge a (2 ^ u.w.toNat + u.q.length)
    · have hseen : k + a < 2 ^ u.w.toNat + acc.length := by omega
      rw [histThenQueue_sink_old hold, zeroHistory_append hseen]
      exact h.bytes a
    · obtain ⟨j, rfl⟩ := Nat.exists_eq_add_of_le hnew
      rw [histThenQueue_sink_new, show k + (2 ^ u.w.toNat + u.q.length + j) = 2 ^ u.w.toNat + acc.length + j by omega]
      exact (zeroHistory_append_new _ _ _ _).symm

theorem showsInput_advance (h : ShowsInput u acc k) (hwf : Memory.wf u.size u.hist) {n : Nat} (hn : n ≤ u.q.length) :
    ShowsInput (u.advance n) acc (k + n) where
  length := by
    have := h.length
    rw [Hse.advance_q, List.length_drop]
    omega
  bytes a := by
    rw [histThenQueue_advance hwf hn, h.bytes, Hse.advance_w]
    congr 1
    omega

section Scan

variable (h : ShowsInput u acc k) (hqueue : u.q.length ≤ u.inCap.toNat) (hscan : u.canScan = true)
  (hfuture : u.finishing = true → future = [])

include h hqueue hscan hfuture

/-- When the unit may scan, the match it finds is the one that the whole input has there. -/
theorem tokenMatch_eq_hsBestMatch :
    tokenMatch u = hsBestMatch u.w.toNat u.l.toNat u.inCap.toNat (acc ++ future) k := by
  have hlen := h.length
  have hmaxlen : min (min (2 ^ u.l.toNat) u.inCap.toNat) ((acc ++ future).length - k) =
      min (2 ^ u.l.toNat) u.q.length := by
    rw [List.length_append]
    obtain ⟨-, hfinishing | hfull⟩ := (hse_canScan_iff u).mp hscan
    · rw [hfuture hfinishing, List.length_nil]
      omega
    · omega
  rw [tokenMatch, hsBestMatch, hmaxlen, Nat.add_comm _ k]
  refine findMatch_shift (fun a ha => ?_) le_rfl
  rw [h.bytes, zeroHistory_append (by omega)]

theorem encodeBits_eq_tokenBits_append :
    encodeBits u.w.toNat u.l.toNat u.inCap.toNat (acc ++ future) k =
      tokenBits u ++ encodeBits u.w.toNat u.l.toNat u.inCap.toNat (acc ++ future) (k + tokenBytes u) := by
  have hlen := h.length
  obtain ⟨hpos, -⟩ := (hse_canScan_iff u).mp hscan
  have hbest := tokenMatch_eq_hsBestMatch h hqueue hscan hfuture
  have hk : k < (acc ++ future).length := by
    rw [List.length_append]
    omega
  by_cases hmatch : UsesMatch u
  · rw [tokenBits, tokenBytes, if_pos hmatch, if_pos hmatch, hbest]
    exact encodeBits_backref hk (hbest ▸ hmatch)
  · have hhead : (acc ++ future).getD k 0#8 = u.q.headD 0 := by
      rw [List.getD_append _ _ _ _ (by omega), ← zeroHistory_add u.w.toNat, Nat.add_comm, ← h.bytes,
        histThenQueue_of_le le_rfl, Nat.sub_self, List.headD_eq_head?_getD, List.getD_eq_getElem?_getD,
        List.head?_eq_getElem?]
    rw [tokenBits, tokenBytes, if_neg hmatch, if_neg hmatch, encodeBits_literal hk (hbest ▸ hmatch), hhead]
    rfl

end Scan

end ShowsInput

/-! ## The simulation (R223) -/

/-- The unit `u`, configured with `w`, `l` and `i`, has accepted `acc` and output `out`: whatever it may still accept,
what it has output, its pending bits and the tokens to come make up the encode of all that was accepted. -/
structure EncodeTracks (w l : BitVec 4) (i : BitVec 32) (u : Hse) (acc out : List Byte) : Prop where
  cfgd : u.cfgd = true
  w_eq : u.w = w
  l_eq : u.l = l
  inCap_eq : u.inCap = i
  inv : u.Inv
  encode : ∃ k, ShowsInput u acc k ∧ ∀ future, (u.finishing = true → future = []) →
    hsEncode w.toNat l.toNat i.toNat (acc ++ future) =
      out ++ packBits (pendingOut u ++ encodeBits w.toNat l.toNat i.toNat (acc ++ future) k)

section EncodeTracks

variable {w l : BitVec 4} {i : BitVec 32} {u : Hse} {s : State} {acc out : List Byte}

/-- A configured unit at the start of a stream. -/
theorem encodeTracks_start {o : BitVec 32} (h : ConfigLegal w l i o) :
    EncodeTracks w l i { Hse.cleared with cfgd := true, w := w, l := l, inCap := i, outCap := o } [] [] where
  cfgd := rfl
  w_eq := rfl
  l_eq := rfl
  inCap_eq := rfl
  inv :=
    { unconfigured := nofun, configured := fun _ => h, queue := Nat.zero_le _, nbits_le := Nat.zero_le _,
      obits_lt := Nat.one_pos, hist_wf := Memory.wf_nil _ }
  encode := by
    refine ⟨0, ⟨rfl, fun a => ?_⟩, fun future _ => hsEncode_eq_packBits _ _ _ future⟩
    rw [histThenQueue, zeroHistory, Nat.zero_add]
    rfl

/-- FINISHING may be set: fewer bytes may then still come. MISUSE is no part of an encode. -/
theorem encodeTracks_flags (h : EncodeTracks w l i u acc out) {f : Bool} (hf : u.finishing = true → f = true)
    (m : Bool) : EncodeTracks w l i { u with finishing := f, misuse := m } acc out where
  cfgd := h.cfgd
  w_eq := h.w_eq
  l_eq := h.l_eq
  inCap_eq := h.inCap_eq
  inv := hse_inv_flags h.inv h.cfgd f m
  encode := by
    obtain ⟨k, ⟨hlen, hbytes⟩, heq⟩ := h.encode
    exact ⟨k, ⟨hlen, hbytes⟩, fun future hfuture => heq future fun hold => hfuture (hf hold)⟩

/-- Bytes accepted are bytes of the future that have come. -/
theorem encodeTracks_sink (h : EncodeTracks w l i u acc out) (hopen : u.finishing ≠ true) {bytes : List Byte}
    (hroom : u.q.length + bytes.length ≤ u.inCap.toNat) :
    EncodeTracks w l i { u with q := u.q ++ bytes } (acc ++ bytes) out where
  cfgd := h.cfgd
  w_eq := h.w_eq
  l_eq := h.l_eq
  inCap_eq := h.inCap_eq
  inv := hse_inv_sink h.inv h.cfgd hroom
  encode := by
    obtain ⟨k, hshows, heq⟩ := h.encode
    refine ⟨k, showsInput_sink hshows bytes, fun future _ => ?_⟩
    rw [List.append_assoc]
    exact heq (bytes ++ future) fun hfinishing => absurd hfinishing hopen

theorem encodeTracks_afterByte (h : EncodeTracks w l i u acc out) (h8 : 8 ≤ u.nbits.toNat) :
    EncodeTracks w l i u.afterByte acc (out ++ [u.outByte]) where
  cfgd := h.cfgd
  w_eq := h.w_eq
  l_eq := h.l_eq
  inCap_eq := h.inCap_eq
  inv := hse_inv_afterByte h.inv h.cfgd h8
  encode := by
    obtain ⟨k, ⟨hlen, hbytes⟩, heq⟩ := h.encode
    refine ⟨k, ⟨hlen, hbytes⟩, fun future hfuture => ?_⟩
    rw [heq future hfuture, packBits_afterByte h8, List.append_assoc, List.singleton_append]

theorem encodeTracks_encodeToken (h : EncodeTracks w l i u acc out) (hbits : u.nbits.toNat < 8)
    (hscan : u.canScan = true) : EncodeTracks w l i u.encodeToken acc out := by
  obtain ⟨hcfgd, rfl, rfl, rfl, hinv, k, hshows, heq⟩ := h
  obtain ⟨nbits, obits, happ, hform⟩ := hse_encodeToken_form hinv hcfgd hbits
  obtain ⟨hpos, -⟩ := (hse_canScan_iff u).mp hscan
  have ⟨_, htaken⟩ := tokenBytes_bounds (List.length_pos_iff.mp hpos)
  have hinv' := hse_inv_encodeToken hinv hcfgd hbits
  rw [hform] at hinv' ⊢
  refine ⟨hcfgd, rfl, rfl, rfl, hinv', k + tokenBytes u, ?_, fun future hfuture => ?_⟩
  · exact showsInput_advance (u := { u with nbits := nbits, obits := obits }) ⟨hshows.length, hshows.bytes⟩
      hinv.hist_wf htaken
  · have hpending : pendingOut ({ u with nbits := nbits, obits := obits }.advance (tokenBytes u)) =
        pendingOut u ++ tokenBits u := happ.pending
    rw [heq future hfuture, encodeBits_eq_tokenBits_append hshows hinv.queue hscan hfuture, hpending,
      List.append_assoc]

/-- The final partial byte is due (R221). -/
theorem hse_lastDue_iff (u : Hse) : u.lastDue = true ↔ u.finishing = true ∧ u.q = [] ∧ 0 < u.nbits.toNat := by
  simp [Hse.lastDue, and_assoc]

/-- `hse_done()` (R222). -/
theorem hse_done_iff (u : Hse) : u.done = true ↔ u.finishing = true ∧ u.q = [] ∧ u.nbits = 0#6 := by
  simp [Hse.done, and_assoc]

/-- With the input at its end no token is to come: the pending bits are the rest of the encode. -/
theorem hsEncode_of_queue_empty (h : EncodeTracks w l i u acc out) (hq : u.q = []) :
    hsEncode w.toNat l.toNat i.toNat acc = out ++ packBits (pendingOut u) := by
  obtain ⟨k, ⟨hlen, -⟩, heq⟩ := h.encode
  have hnow := heq [] fun _ => rfl
  rw [hq, List.length_nil, Nat.add_zero] at hlen
  rwa [List.append_nil, encodeBits_end hlen.ge, List.append_nil] at hnow

theorem encodeTracks_afterLast (h : EncodeTracks w l i u acc out) (hbits : u.nbits.toNat < 8)
    (hdue : u.lastDue = true) : EncodeTracks w l i u.afterLast acc (out ++ [u.lastByte]) where
  cfgd := h.cfgd
  w_eq := h.w_eq
  l_eq := h.l_eq
  inCap_eq := h.inCap_eq
  inv := hse_inv_afterLast h.inv h.cfgd
  encode := by
    obtain ⟨hfinishing, hq, hpos⟩ := (hse_lastDue_iff u).mp hdue
    have hrest := hsEncode_of_queue_empty h hq
    obtain ⟨k, ⟨hlen, hbytes⟩, -⟩ := h.encode
    refine ⟨k, ⟨hlen, hbytes⟩, fun future hfuture => ?_⟩
    have hend : acc.length ≤ k := by
      rw [hq] at hlen
      exact hlen.ge
    rw [hfuture hfinishing, List.append_nil, hrest, packBits_afterLast hpos hbits h.inv.obits_lt, encodeBits_end hend]
    exact (List.append_nil _).symm

theorem encodeTracks_poll_stop (h : EncodeTracks w l i u acc out) (st : Status) :
    EncodeTracks w l i (HsePolled.mk u st []).unit acc (out ++ (HsePolled.mk u st []).dout) := by
  rwa [List.append_nil]

theorem encodeTracks_poll_after {r : HsePolled} {c : Byte} (h : EncodeTracks w l i r.unit acc (out ++ [c] ++ r.dout)) :
    EncodeTracks w l i (r.after c).unit acc (out ++ (r.after c).dout) := by
  rwa [List.append_assoc] at h

/-- HSE_POLL's loop outputs the next bytes of the encode, wherever it stops. -/
theorem encodeTracks_pollLoop (fuel room : Nat) (h : EncodeTracks w l i u acc out) :
    EncodeTracks w l i (hsePollLoop fuel room u).unit acc (out ++ (hsePollLoop fuel room u).dout) := by
  induction fuel generalizing room u out with
  | zero => exact encodeTracks_poll_stop h .empty
  | succ fuel ih =>
    rw [hsePollLoop]
    split
    next h8 =>
      split
      next => exact encodeTracks_poll_stop h .more
      next => exact encodeTracks_poll_after (ih (room - 1) (encodeTracks_afterByte h h8))
    next h8 =>
      have hbits := Nat.lt_of_not_le h8
      split
      next hscan => exact ih room (encodeTracks_encodeToken h hbits hscan)
      next =>
        split
        next hdue =>
          split
          next => exact encodeTracks_poll_stop h .more
          next => exact encodeTracks_poll_after (ih (room - 1) (encodeTracks_afterLast h hbits hdue))
        next => exact encodeTracks_poll_stop h .empty

theorem encodeTracks_done (h : EncodeTracks w l i u acc out) (hdone : u.done = true) :
    out = hsEncode w.toNat l.toNat i.toNat acc := by
  obtain ⟨-, hq, hnbits⟩ := (hse_done_iff u).mp hdone
  rw [hsEncode_of_queue_empty h hq, pendingOut, hnbits]
  exact (List.append_nil _).symm

/-! ## Scripts of commands -/

theorem acceptedBy_hseSink_reply (din : List Byte) (t : State) (st : Status) (n : BitVec 32) (d : List Byte) :
    acceptedBy (.hseSink din) (t.reply st n d) = din.take n.toNat := by rw [acceptedBy, lastResponse_reply]

/-- HSE_SINK takes as many bytes into Q as it counts, none where it answers MISUSE or FULL. -/
theorem encodeTracks_exec_hseSink (h : EncodeTracks w l i s.hse acc out) (din : List Byte) :
    ∃ t, exec (.hseSink din) s = .next t ∧ EncodeTracks w l i t.hse (acc ++ acceptedBy (.hseSink din) t) out := by
  by_cases hmisuse : s.hse.cfgd = false ∨ s.hse.finishing = true
  · refine ⟨_, (exec_hseSink_of_misuse hmisuse din).trans (next_reply_eq_answer _ _ _ _).symm, ?_⟩
    rw [acceptedBy_hseSink_reply, BitVec.toNat_ofNat, Nat.zero_mod, List.take_zero, List.append_nil]
    exact encodeTracks_flags h id true
  by_cases hfull : s.hse.inCap.toNat - s.hse.q.length = 0
  · refine ⟨_, (exec_hseSink_of_full hmisuse hfull din).trans (next_reply_eq_answer _ _ _ _).symm, ?_⟩
    rw [acceptedBy_hseSink_reply, BitVec.toNat_ofNat, Nat.zero_mod, List.take_zero, List.append_nil]
    exact h
  · have hlen := sinkTaken_length s.hse.inCap s.hse.q din
    have hfits : (sinkTaken s.hse.inCap s.hse.q din).length < 2 ^ 32 := by omega
    have htaken : din.take (sinkTaken s.hse.inCap s.hse.q din).length = sinkTaken s.hse.inCap s.hse.q din := by
      rw [hlen, sinkTaken_eq_take_min]
    refine ⟨_, (exec_hseSink_of_room hmisuse hfull din).trans (next_reply_eq_answer _ _ _ _).symm, ?_⟩
    rw [acceptedBy_hseSink_reply, BitVec.toNat_ofNat, Nat.mod_eq_of_lt hfits, htaken]
    exact encodeTracks_sink h (fun hfinishing => hmisuse (.inr hfinishing)) (by omega)

theorem encodeTracks_exec_hsePoll (h : EncodeTracks w l i s.hse acc out) :
    ∃ t, exec .hsePoll s = .next t ∧ EncodeTracks w l i t.hse acc (out ++ outputBy .hsePoll t) := by
  refine ⟨_, (exec_hsePoll_of_configured h.cfgd).trans (next_reply_eq_answer _ _ _ _).symm, ?_⟩
  rw [outputBy, lastResponse_reply]
  exact encodeTracks_pollLoop _ _ h

theorem encodeTracks_exec_hseFinish (h : EncodeTracks w l i s.hse acc out) :
    ∃ t, exec .hseFinish s = .next t ∧ EncodeTracks w l i t.hse acc out :=
  ⟨_, (exec_hseFinish_of_configured h.cfgd).trans (next_reply_eq_answer _ _ _ _).symm,
    encodeTracks_flags h (fun _ => rfl) s.hse.misuse⟩

end EncodeTracks

/-- What every command of a script keeps, of the state and of the bytes accepted and output so far, the script keeps. -/
theorem codecTrace_keeps {P : State → List Byte → List Byte → Prop} {script : List Instr} {s : State}
    {acc out : List Byte} (h : P s acc out)
    (hstep : ∀ i ∈ script, ∀ s acc out, P s acc out →
      ∃ t, exec i s = .next t ∧ P t (acc ++ acceptedBy i t) (out ++ outputBy i t)) :
    P (codecTrace script s).final (acc ++ (codecTrace script s).accepted) (out ++ (codecTrace script s).output) := by
  induction script generalizing s acc out with
  | nil =>
    rw [codecTrace, List.append_nil, List.append_nil]
    exact h
  | cons i script ih =>
    obtain ⟨t, hexec, ht⟩ := hstep i List.mem_cons_self s acc out h
    have hrest := ih ht fun j hj => hstep j (List.mem_cons_of_mem i hj)
    rw [codecTrace, hexec]
    rwa [List.append_assoc, List.append_assoc] at hrest

/-- However a script goes on from a unit on its way, it stays on its way. -/
theorem encodeTracks_codecTrace {w l : BitVec 4} {i : BitVec 32} {s : State} {acc out : List Byte} {script : List Instr}
    (hscript : HseScript script) (h : EncodeTracks w l i s.hse acc out) :
    EncodeTracks w l i (codecTrace script s).final.hse (acc ++ (codecTrace script s).accepted)
      (out ++ (codecTrace script s).output) := by
  refine codecTrace_keeps (P := fun s => EncodeTracks w l i s.hse) h fun c hc s acc out h => ?_
  obtain ⟨din, rfl⟩ | rfl | rfl := hscript c hc
  · simpa only [outputBy, List.append_nil] using encodeTracks_exec_hseSink h din
  · simpa only [acceptedBy, List.append_nil] using encodeTracks_exec_hsePoll h
  · simpa only [acceptedBy, outputBy, List.append_nil] using encodeTracks_exec_hseFinish h

/-- Settles O38: HSE_CFG starts a unit on its way to the encode, every command of the script keeps it there, and a unit
that is done has come to its end. -/
theorem hseStreamIsPureEncode : Obligations.HseStreamIsPureEncode := by
  intro w l i o s s' script hlegal hcfg hscript hdone
  rw [exec_hseCfg_of_legal hlegal] at hcfg
  cases hcfg
  simpa only [List.nil_append] using
    encodeTracks_done (encodeTracks_codecTrace hscript (encodeTracks_start hlegal)) hdone

end Sys2Proof.Proofs

/-! PROOF of the statement about MP_RESET (spec/44_meatpack.md R253): the equation of the command and its encoding. -/

namespace Sys2Proof.Proofs

open Sys2Proof.Machine Sys2Proof.Claims

/-- The unit that MP_RESET leaves is the one whose registers R253 sets to 0, one by one. -/
theorem mpu_cleared_eq :
    Mpu.cleared = {
      packing := false, nospace := false, cmdCount := false, cmdActive := false, fcq := 0, addSpace := false,
      nonempty := false, charBuf := 0, last := 0, outLen := 0 } := rfl

theorem exec_mpReset (s : State) : exec .mpReset s = answer { s with mpu := Mpu.cleared } .ok 0 [] :=
  next_reply_eq_answer { s with mpu := Mpu.cleared } .ok 0 []

theorem encodedBare_mpReset : EncodedBare 0x40#8 .mpReset :=
  encodedBare_of_decode fun imm din => by rw [decode, opcodeOf_cmd]; rfl

/-- Settles O41: the equation of MP_RESET with the registers of MPU spelled out, and its encoding. -/
theorem mpResetRule : Obligations.MpResetRule := by
  refine ⟨fun s => ?_, encodedBare_mpReset⟩
  rw [exec_mpReset, mpu_cleared_eq]

end Sys2Proof.Proofs

/-! PROOFS of the statements about FD_START, FD_RESULT and the terminal phases of the dispatcher
(spec/45_framing_dispatcher.md R293, R313, R314): one equation per command and case, the fields of a descriptor read
back from their bytes, and that no other unit's command writes FD. -/

namespace Sys2Proof.Proofs

open Sys2Proof.Machine Sys2Proof.Claims

/-! ## FD_RESULT (R314): the encoding of an index (spec/30_encoding.md R93, R97) -/

theorem decode_cmd_fdResult (imm : BitVec 24) (din : List Byte) :
    decode (cmd 0x55#8 imm din) = decodeIndex (cmd 0x55#8 imm din) .fdResult := by
  rw [decode, opcodeOf_cmd]; rfl

theorem decodeIndex_cmd_of_no_din (o : BitVec 8) (imm : BitVec 24) (i : BitVec 24 → Instr) :
    decodeIndex (cmd o imm []) i = .ok (i imm) := by
  rw [decodeIndex, cmd_din, if_pos List.length_nil, immOf_cmd]

theorem execute_fdResult (imm : BitVec 24) (din : List Byte) (s : State) :
    execute (cmd 0x55#8 imm din) s = if din = [] then exec (.fdResult imm) s else illegal s := by
  refine execute_eq_ite ?_ ?_ s
  · rw [decode_cmd_fdResult, decodeIndex_accepts_iff, List.length_eq_zero_iff]
  · rintro rfl
    rw [decode_cmd_fdResult, decodeIndex_cmd_of_no_din]

/-! ## Numbers read back from a window of bytes (spec/30_encoding.md R116) -/

section Window

variable {d : List Byte} {i : Nat}

theorem leNat_of_window {n v : Nat} (h : (d.drop i).take n = leBytes n v) (hv : v < 256 ^ n) :
    leNat ((d.drop i).take n) = v := by
  rw [h, leNat_leBytes, Nat.mod_eq_of_lt hv]

theorem le16_of_window {v : BitVec 16} (h : (d.drop i).take 2 = leBytes 2 v.toNat) : le16 d i = v := by
  rw [le16, leNat_of_window h v.isLt, BitVec.ofNat_toNat, BitVec.setWidth_eq]

theorem le32_of_window {v : BitVec 32} (h : (d.drop i).take 4 = leBytes 4 v.toNat) : le32 d i = v := by
  rw [le32, leNat_of_window h v.isLt, BitVec.ofNat_toNat, BitVec.setWidth_eq]

end Window

/-! ## The descriptor (spec/30_encoding.md R116) -/

theorem descriptor_length (r : BlockRecord) : r.descriptor.length = 36 := by
  simp [BlockRecord.descriptor]

theorem toNat_flagByte (b : Bool) : ((flagBit b).setWidth 8 : Byte).toNat = bit b := by
  cases b <;> rfl

/-! ## FD_RESULT (R314): its two outcomes -/

theorem exec_fdResult_of_misuse {i : BitVec 24} {s : State}
    (h : s.fd.phase ≠ .done ∨ s.fd.nblocks.toNat ≤ i.toNat) :
    exec (.fdResult i) s = answer { s with fd := { s.fd with misuse := true } } .misuse 0 [] := if_pos h

theorem exec_fdResult_of_record {i : BitVec 24} {s : State} {r : BlockRecord} (hdone : s.fd.phase = .done)
    (hi : i.toNat < s.fd.nblocks.toNat) (hr : s.fd.results[i.toNat]? = some r) :
    exec (.fdResult i) s = answer s .ok (36 + r.routed.length) (r.descriptor ++ r.routed) := by
  have hheld : ¬ (s.fd.phase ≠ .done ∨ s.fd.nblocks.toNat ≤ i.toNat) :=
    not_or.mpr ⟨not_not.mpr hdone, Nat.not_le.mpr hi⟩
  rw [exec, execFdResult, if_neg hheld, hr]
  show Host.Outcome.next (s.reply .ok (BitVec.ofNat 32 r.bytes.length) r.bytes) = _
  rw [next_reply_eq_answer, BlockRecord.bytes, List.length_append, descriptor_length]

/-- FD_NBLOCKS counts the records modulo 2^32, so an index below it is that of a record. -/
theorem lt_results_length_of_lt_nblocks {f : Fd} {i : Nat} (h : i < f.nblocks.toNat) : i < f.results.length :=
  h.trans_le <| by rw [Fd.nblocks, BitVec.toNat_ofNat]; exact Nat.mod_le _ _

/-- Settles O50: a record's descriptor is its fields' bytes one after another, so the window at each field's place holds
that field's bytes. -/
theorem fdResultRule : Obligations.FdResultRule := by
  refine ⟨execute_fdResult, fun i s => ⟨exec_fdResult_of_misuse, fun hdone hi => ?_⟩⟩
  obtain ⟨r, hr⟩ : ∃ r, s.fd.results[i.toNat]? = some r :=
    ⟨_, List.getElem?_eq_getElem (lt_results_length_of_lt_nblocks hi)⟩
  refine ⟨r, r.descriptor, hr, exec_fdResult_of_record hdone hi hr, descriptor_length r, le16_of_window rfl,
    le16_of_window rfl, le32_of_window rfl, le32_of_window rfl, leNat_of_window rfl r.params.isLt, le16_of_window rfl,
    toNat_flagByte r.valid, toNat_flagByte r.sizeMismatch, ?_, rfl, le32_of_window rfl, le32_of_window rfl,
    le32_of_window rfl⟩
  show r.route.code = _
  cases r.route <;> rfl

/-! ## The terminal phases (R313) -/

/-- A terminal phase, and the status that FD_STEP answers in it. -/
def Terminal (p : Phase) (st : Status) : Prop :=
  (p = .done ∧ st = .done) ∨ (p = .error ∧ st = .fatal) ∨ (p = .cancelled ∧ st = .cancelled)

section Terminal

variable {s : State} {p : Phase} {st : Status}

theorem isActive_of_terminal (h : Terminal p st) : p.isActive = false := by
  obtain ⟨rfl, -⟩ | ⟨rfl, -⟩ | ⟨rfl, -⟩ := h <;> rfl

theorem not_ok_of_terminal (h : Terminal p st) : st ≠ .ok := by
  obtain ⟨-, rfl⟩ | ⟨-, rfl⟩ | ⟨-, rfl⟩ := h <;> decide

theorem fdStep_of_terminal (h : Terminal s.fd.phase st) : fdStep s = fdReturn s st 0 := by
  obtain ⟨hphase, rfl⟩ | ⟨hphase, rfl⟩ | ⟨hphase, rfl⟩ := h <;> rw [fdStep, hphase]

theorem exec_fdStep_of_terminal (h : Terminal s.fd.phase st) : exec .fdStep s = answer s st 0 [] := by
  rw [exec, execFdStep, fdStep_of_terminal h]
  exact next_reply_eq_answer s st 0 []

/-- The loop of FD_RUN (R312) ends with its first step when that does not answer OK. -/
theorem fdRun_of_fdStep_not_ok {t : State} {n : Nat} (hstep : fdStep s = fdReturn t st n) (hst : st ≠ .ok) :
    fdRun s = fdReturn t st n := by
  rw [fdRun, Fd.runFuel, fdRunLoop, hstep]
  simp [fdReturn, hst]

theorem exec_fdRun_of_terminal (h : Terminal s.fd.phase st) : exec .fdRun s = answer s st 0 [] := by
  rw [exec, execFdRun, fdRun_of_fdStep_not_ok (fdStep_of_terminal h) (not_ok_of_terminal h)]
  exact next_reply_eq_answer s st 0 []

/-! ## FD_PUSH, FD_EOF and FD_ABORT outside the active phases (R294 to R296) -/

theorem exec_fdPush_of_misuse (h : s.fd.phase.isActive = false ∨ s.fd.eof = true) (din : List Byte) :
    exec (.fdPush din) s = answer { s with fd := { s.fd with misuse := true } } .misuse 0 [] := if_pos h

theorem exec_fdEof_of_misuse (h : s.fd.phase.isActive = false ∨ s.fd.eof = true) :
    exec .fdEof s = answer { s with fd := { s.fd with misuse := true } } .misuse 0 [] := if_pos h

theorem exec_fdAbort_of_inactive (h : s.fd.phase.isActive = false) : exec .fdAbort s = answer s .ok 0 [] := by
  rw [exec, execFdAbort, h, Bool.or_false]
  exact next_reply_eq_answer s .ok 0 []

/-! ## What leaves the phase alone -/

/-- spec/20_memory.md R82: the commands of the other units do not write FD, but for RESET_ALL. -/
theorem fd_eq_of_exec_other_unit {i : Instr} {t : State} (h : exec i s = .next t) (hunit : unitOf i ≠ .fd)
    (hreset : i ≠ .resetAll) : t.fd = s.fd := by
  cases i with
  | resetAll => exact absurd rfl hreset
  | nop | rdreg _ | crcClear | crcLoad _ | crcByte _ | crcSpan _ | crcRead | mpReset | mpFeed _ => cases h; rfl
  | hsdCfg _ _ _ _ | hsdSink _ | hsdPoll | hsdFinish | hsdReset =>
    simp only [exec, execHsdCfg, execHsdSink, execHsdPoll, execHsdFinish, execHsdReset] at h
    split_ifs at h <;> cases h <;> rfl
  | hseCfg _ _ _ _ | hseSink _ | hsePoll | hseFinish | hseReset =>
    simp only [exec, execHseCfg, execHseSink, execHsePoll, execHseFinish, execHseReset] at h
    split_ifs at h <;> cases h <;> rfl
  | fdStart | fdPush _ | fdEof | fdStep | fdAbort | fdResult _ | fdRun => exact absurd rfl hunit

/-- A command that answers from a state of the same phase keeps the phase: the response writes no unit. -/
theorem phase_eq_of_exec_eq_answer {i : Instr} {t u : State} {n : Nat} {d : List Byte} (h : exec i s = .next t)
    (heq : exec i s = answer u st n d) (hphase : u.fd.phase = s.fd.phase) : t.fd.phase = s.fd.phase := by
  cases heq.symm.trans h
  exact hphase

/-- Whatever FD_RESULT answers, it writes no more of FD than the misuse bit. -/
theorem phase_eq_of_exec_fdResult {i : BitVec 24} {t : State} (h : exec (.fdResult i) s = .next t) :
    t.fd.phase = s.fd.phase := by
  by_cases hmisuse : s.fd.phase ≠ .done ∨ s.fd.nblocks.toNat ≤ i.toNat
  · exact phase_eq_of_exec_eq_answer h (exec_fdResult_of_misuse hmisuse) rfl
  · obtain ⟨hdone, hi⟩ := not_or.mp hmisuse
    rw [Nat.not_le] at hi
    exact phase_eq_of_exec_eq_answer h (exec_fdResult_of_record (not_not.mp hdone) hi
      (List.getElem?_eq_getElem (lt_results_length_of_lt_nblocks hi))) rfl

theorem phase_eq_of_exec_of_terminal (hterm : Terminal s.fd.phase st) {i : Instr} {t : State} (h : exec i s = .next t)
    (hstart : i ≠ .fdStart) (hreset : i ≠ .resetAll) : t.fd.phase = s.fd.phase := by
  by_cases hunit : unitOf i = .fd
  case neg => rw [fd_eq_of_exec_other_unit h hunit hreset]
  have hinactive := isActive_of_terminal hterm
  cases i with
  | fdStart => exact absurd rfl hstart
  | fdPush din => exact phase_eq_of_exec_eq_answer h (exec_fdPush_of_misuse (.inl hinactive) din) rfl
  | fdEof => exact phase_eq_of_exec_eq_answer h (exec_fdEof_of_misuse (.inl hinactive)) rfl
  | fdStep => exact phase_eq_of_exec_eq_answer h (exec_fdStep_of_terminal hterm) rfl
  | fdAbort => exact phase_eq_of_exec_eq_answer h (exec_fdAbort_of_inactive hinactive) rfl
  | fdResult _ => exact phase_eq_of_exec_fdResult h
  | fdRun => exact phase_eq_of_exec_eq_answer h (exec_fdRun_of_terminal hterm) rfl
  | _ => cases hunit

end Terminal

/-- Settles O54: the equation of each FD command in a terminal phase, and that none of the others writes the phase. -/
theorem terminalPhasesStay : Obligations.TerminalPhasesStay := by
  intro s st (hterm : Terminal s.fd.phase st)
  have hmisuse : s.fd.phase.isActive = false ∨ s.fd.eof = true := .inl (isActive_of_terminal hterm)
  exact ⟨fun _ _ => phase_eq_of_exec_of_terminal hterm, exec_fdStep_of_terminal hterm, exec_fdRun_of_terminal hterm,
    exec_fdPush_of_misuse hmisuse, exec_fdEof_of_misuse hmisuse, exec_fdAbort_of_inactive (isActive_of_terminal hterm),
    fun hdone _ => exec_fdResult_of_misuse (.inl hdone)⟩

/-! ## FD_START (R293) -/

/-- The unit that FD_START leaves is the one whose registers R293 sets to 0, one by one. -/
theorem fd_started_eq :
    Fd.started = {
      phase := .fileHdr, cursor := 0, magic := 0, version := 0, ckKind := 0, error := .none, eof := false,
      abortReq := false, magicOk := false, misuse := false, hdrDone := false, src := [], btype := 0, comp := 0,
      busize := 0, bcsize := 0, bparam := 0, bcrc := 0, pay := [], dec := [], route := [], routeKind := .ini,
      results := [] } := rfl

theorem exec_fdStart (s : State) : exec .fdStart s = answer { s with fd := Fd.started } .ok 0 [] :=
  next_reply_eq_answer { s with fd := Fd.started } .ok 0 []

theorem encodedBare_fdStart : EncodedBare 0x50#8 .fdStart :=
  encodedBare_of_decode fun imm din => by rw [decode, opcodeOf_cmd]; rfl

/-- Settles O47: the equation of FD_START with the registers of FD spelled out, and its encoding. The model's choice for
the route of an empty FD.ROUTE is INI. -/
theorem fdStartRule : Obligations.FdStartRule := by
  refine ⟨encodedBare_fdStart, fun s => ⟨.ini, ?_⟩⟩
  rw [exec_fdStart, fd_started_eq]

end Sys2Proof.Proofs

/-! PROOF of the statement about the reset state (spec/70_reset_and_hazards.md R380, R381). The reset state is a state that
RESET_ALL leaves as it is, so what R134 says of the units after RESET_ALL holds of it. -/

namespace Sys2Proof.Proofs

open Sys2Proof.Machine Sys2Proof.Claims

/-! ## RESET_ALL and the reset state (R381) -/

theorem resetUnits_reset : State.reset.resetUnits = State.reset := rfl

theorem units_eq_reset_of_exec_resetAll {s t : State} (h : exec .resetAll s = .next t) :
    t.crcAcc = State.reset.crcAcc ∧ t.hsd = State.reset.hsd ∧ t.hse = State.reset.hse ∧ t.mpu = State.reset.mpu ∧
      t.fd = State.reset.fd := by
  cases (exec_resetAll s).symm.trans h
  exact ⟨rfl, rfl, rfl, rfl, rfl⟩

/-! ## The reset state itself (R380) -/

theorem reset_queues_and_sequences_empty :
    State.reset.hsd.inq = [] ∧ State.reset.hse.q = [] ∧ State.reset.fd.src = [] ∧ State.reset.fd.pay = [] ∧
      State.reset.fd.dec = [] ∧ State.reset.fd.route = [] ∧ State.reset.fd.results = [] := by
  rw [← resetUnits_reset]
  exact resetUnits_queues_and_sequences_empty State.reset

theorem reset_codecs_unconfigured :
    State.reset.hsd.cfgd = false ∧ State.reset.hse.cfgd = false ∧ State.reset.hsd.dict = [] ∧
      State.reset.hse.hist = [] := by
  rw [← resetUnits_reset]
  exact resetUnits_codecs_unconfigured State.reset

/-- The registers that hold a code of a table, and the two modes of MP_STAT: what R380 names beside the values. -/
theorem reset_dstate_phase_error_modes :
    State.reset.hsd.dstate = .tag ∧ State.reset.fd.phase = .idle ∧ State.reset.fd.error = .none ∧
      State.reset.mpu.packing = false ∧ State.reset.mpu.nospace = false := ⟨rfl, rfl, rfl, rfl, rfl⟩

/-- Settles O10: the register values and the units of the reset state, and that RESET_ALL leaves the same units. -/
theorem resetStateHoldsResetValues : Obligations.ResetStateHoldsResetValues := by
  obtain ⟨hdstate, hphase, herror, hpacking, hnospace⟩ := reset_dstate_phase_error_modes
  exact ⟨regValue_reset, reset_queues_and_sequences_empty, reset_codecs_unconfigured, hdstate, hphase, herror, hpacking,
    hnospace, fun _ _ => units_eq_reset_of_exec_resetAll⟩

end Sys2Proof.Proofs

/-! PROOFS of the statements about encoding and the command cycle (spec/30_encoding.md R91 to R99, spec/40_sys.md R130,
R131): encoding and decoding undo each other. Each operand form of R93 and R94 has one lemma for each direction, and the
opcode map of R92 then goes form by form. -/

namespace Sys2Proof.Proofs

open Sys2Proof.Machine Sys2Proof.Claims

/-! ## Decoding what was encoded: the forms that put operands into IMM (R93) -/

/-- The upper bits of a zero-extended operand are 0. -/
theorem extractLsb'_upper_zero_append {used unused : Nat} (x : BitVec used) :
    (0#unused ++ x).extractLsb' used unused = 0#unused := by
  ext k hk
  simp [BitVec.getLsbD_append]

/-- The lower bits of a zero-extended operand are the operand. -/
theorem extractLsb'_lower_append {used unused : Nat} (y : BitVec unused) (x : BitVec used) :
    (y ++ x).extractLsb' 0 used = x := by
  ext k hk
  simp [BitVec.getLsbD_append, hk]

theorem decodeReg_cmd_of_number (o : BitVec 8) (r : Reg) (i : Reg → Instr) :
    decodeReg (cmd o (0#12 ++ r.number) []) i = .ok (i r) := by
  rw [decodeReg, immOf_cmd, if_pos (extractLsb'_upper_zero_append r.number), cmd_din, if_pos List.length_nil,
    extractLsb'_lower_append, Reg.ofNumber_number]

theorem decodeByte_cmd_of_byte (o : BitVec 8) (b : Byte) (i : Byte → Instr) :
    decodeByte (cmd o (0#16 ++ b) []) i = .ok (i b) := by
  rw [decodeByte, immOf_cmd, if_pos (extractLsb'_upper_zero_append b), cmd_din, if_pos List.length_nil,
    extractLsb'_lower_append]

/-- `L = IMM[7:4]` of the IMM that a configuration is written as. -/
theorem extractLsb'_lookahead (w l : BitVec 4) : (0#16 ++ (l ++ w) : BitVec 24).extractLsb' 4 4 = l := by
  revert w l
  decide

/-- `W = IMM[3:0]` of the IMM that a configuration is written as. -/
theorem extractLsb'_window (w l : BitVec 4) : (0#16 ++ (l ++ w) : BitVec 24).extractLsb' 0 4 = w := by
  revert w l
  decide

theorem decodeCfg_cmd_of_cfgDin (o : BitVec 8) (w l : BitVec 4) (inCap outCap : BitVec 32)
    (i : BitVec 4 → BitVec 4 → BitVec 32 → BitVec 32 → Instr) :
    decodeCfg (cmd o (0#16 ++ (l ++ w)) (cfgDin inCap outCap)) i = .ok (i w l inCap outCap) := by
  rw [decodeCfg, immOf_cmd, if_pos (extractLsb'_upper_zero_append (l ++ w)), cmd_din,
    if_pos (cfgDin_length inCap outCap), extractLsb'_window, extractLsb'_lookahead, le32_cfgDin_zero, le32_cfgDin_four]

theorem decodeLoad_cmd_of_leBytes (o : BitVec 8) (v : BitVec 32) (i : BitVec 32 → Instr) :
    decodeLoad (cmd o 0#24 (leBytes 4 v.toNat)) i = .ok (i v) := by
  rw [decodeLoad_cmd_of_four_bytes i (leBytes_length 4 v.toNat), le32_leBytes]

theorem length_lt_of_dinFits {din : List Byte} (h : dinFits din = true) : din.length < 2 ^ 32 := of_decide_eq_true h

/-- Settles O1: the opcode map sends an encoded instruction to its own operand form, which reads its operands back. -/
theorem decodeInvertsEncode : Obligations.DecodeInvertsEncode := by
  intro i hwf
  cases i with
  | nop | resetAll | crcClear | crcRead | hsdPoll | hsdFinish | hsdReset | hsePoll | hseFinish | hseReset | mpReset
  | fdStart | fdEof | fdStep | fdAbort | fdRun =>
    rw [decode, encode, opcodeOf_commandWord]
    exact decodeBare_cmd_of_no_operands _ _
  | crcSpan din | hsdSink din | hseSink din | mpFeed din | fdPush din =>
    rw [decode, encode, opcodeOf_commandWord]
    exact decodeAny_cmd_of_imm_zero _ (length_lt_of_dinFits hwf)
  | hsdCfg w l inCap outCap | hseCfg w l inCap outCap =>
    rw [decode, encode, opcodeOf_commandWord]
    exact decodeCfg_cmd_of_cfgDin _ w l inCap outCap _
  | crcLoad v => exact (decode_cmd_crcLoad _ _).trans (decodeLoad_cmd_of_leBytes _ v _)
  | crcByte b => exact (decode_cmd_crcByte _ _).trans (decodeByte_cmd_of_byte _ b _)
  | fdResult n => exact (decode_cmd_fdResult _ _).trans (decodeIndex_cmd_of_no_din _ n _)
  | rdreg r =>
    rw [decode, encode, opcodeOf_commandWord]
    exact decodeReg_cmd_of_number _ r _

/-! ## Encoding what was decoded: nothing of a command is dropped (R97) -/

theorem append_extractLsb'_parts {used unused : Nat} (x : BitVec (unused + used)) :
    x.extractLsb' used unused ++ x.extractLsb' 0 used = x := by
  ext k hk
  simp only [← BitVec.getLsbD_eq_getElem, BitVec.getLsbD_append, BitVec.getLsbD_extractLsb']
  by_cases h : k < used
  · simp [h]
  · simp [h, show k - used < unused by omega, show used + (k - used) = k by omega]

/-- The nibbles of a byte, one after the other. -/
theorem append_extractLsb'_nibbles (imm : BitVec 24) :
    imm.extractLsb' 4 4 ++ imm.extractLsb' 0 4 = imm.extractLsb' 0 8 := by
  ext k hk
  simp only [← BitVec.getLsbD_eq_getElem, BitVec.getLsbD_append, BitVec.getLsbD_extractLsb']
  by_cases h : k < 4
  · simp [h, hk]
  · simp [h, hk, show k - 4 < 4 by omega, show 4 + (k - 4) = k by omega]

/-- The bytes of the number that `le32` reads are the bytes it reads. -/
theorem leBytes_le32 {din : List Byte} {k : Nat} (h : k + 4 ≤ din.length) :
    leBytes 4 (le32 din k).toNat = (din.drop k).take 4 := by
  have hlen : ((din.drop k).take 4).length = 4 := by
    rw [List.length_take, List.length_drop]
    omega
  have hlt := leNat_lt ((din.drop k).take 4)
  have hbytes := leBytes_leNat ((din.drop k).take 4)
  rw [hlen] at hlt hbytes
  rw [le32, BitVec.toNat_ofNat, show 2 ^ 32 = 256 ^ 4 from rfl, Nat.mod_eq_of_lt hlt, hbytes]

theorem cfgDin_le32 {din : List Byte} (h : din.length = 8) : cfgDin (le32 din 0) (le32 din 4) = din := by
  have hlast : (din.drop 4).take 4 = din.drop 4 := List.take_of_length_le (by rw [List.length_drop]; omega)
  rw [cfgDin, leBytes_le32 (by omega), leBytes_le32 (by omega), List.drop_zero, hlast, List.take_append_drop]

/-- The command `c` is what the well-formed instruction `i` is written as. -/
def Encodes (c : Command) (i : Instr) : Prop := encode i = c ∧ i.wellFormed = true

section Forms

variable {c : Command} {o : BitVec 8}

/-- A command is its opcode, its IMM and its din. -/
theorem command_eq_of_parts {imm : BitVec 24} {din : List Byte} (ho : (opcodeOf c.word).toNat = o.toNat)
    (himm : immOf c.word = imm) (hdin : c.din = din) : ⟨commandWord o imm, din⟩ = c := by
  rw [← BitVec.eq_of_toNat_eq ho, ← himm, commandWord_parts, ← hdin]

variable (ho : (opcodeOf c.word).toNat = o.toNat)

include ho

theorem encodes_of_decodeBare {i j : Instr} (h : decodeBare c i = .ok j) (henc : encode i = ⟨commandWord o 0#24, []⟩)
    (hwf : i.wellFormed = true) : Encodes c j := by
  unfold decodeBare at h
  split_ifs at h with himm hdin
  cases h
  exact ⟨henc.trans (command_eq_of_parts ho himm (List.eq_nil_of_length_eq_zero hdin)), hwf⟩

theorem encodes_of_decodeAny {i : List Byte → Instr} {j : Instr} (h : decodeAny c i = .ok j)
    (henc : encode (i c.din) = ⟨commandWord o 0#24, c.din⟩) (hwf : (i c.din).wellFormed = dinFits c.din) :
    Encodes c j := by
  unfold decodeAny at h
  split_ifs at h with himm hdin
  cases h
  exact ⟨henc.trans (command_eq_of_parts ho himm rfl), hwf.trans hdin⟩

theorem encodes_of_decodeLoad {i : BitVec 32 → Instr} {j : Instr} (h : decodeLoad c i = .ok j)
    (henc : ∀ v, encode (i v) = ⟨commandWord o 0#24, leBytes 4 v.toNat⟩) (hwf : ∀ v, (i v).wellFormed = true) :
    Encodes c j := by
  unfold decodeLoad at h
  split_ifs at h with himm hdin
  cases h
  have hbytes : leBytes 4 (le32 c.din 0).toNat = c.din := by
    rw [leBytes_le32 (by omega), List.drop_zero, List.take_of_length_le (by omega)]
  exact ⟨(henc _).trans (command_eq_of_parts ho himm hbytes.symm), hwf _⟩

theorem encodes_of_decodeByte {i : Byte → Instr} {j : Instr} (h : decodeByte c i = .ok j)
    (henc : ∀ b, encode (i b) = ⟨commandWord o (0#16 ++ b), []⟩) (hwf : ∀ b, (i b).wellFormed = true) :
    Encodes c j := by
  unfold decodeByte at h
  split_ifs at h with himm hdin
  cases h
  refine ⟨(henc _).trans (command_eq_of_parts ho ?_ (List.eq_nil_of_length_eq_zero hdin)), hwf _⟩
  rw [← himm]
  exact (append_extractLsb'_parts (used := 8) (unused := 16) (immOf c.word)).symm

theorem encodes_of_decodeReg {i : Reg → Instr} {j : Instr} (h : decodeReg c i = .ok j)
    (henc : ∀ r, encode (i r) = ⟨commandWord o (0#12 ++ r.number), []⟩) (hwf : ∀ r, (i r).wellFormed = true) :
    Encodes c j := by
  unfold decodeReg at h
  split_ifs at h with himm hdin
  cases hreg : Reg.ofNumber ((immOf c.word).extractLsb' 0 12) with
  | none => rw [hreg] at h; exact absurd h nofun
  | some r =>
    rw [hreg] at h
    cases h
    refine ⟨(henc r).trans (command_eq_of_parts ho ?_ (List.eq_nil_of_length_eq_zero hdin)), hwf r⟩
    rw [Reg.number_of_ofNumber hreg, ← himm]
    exact (append_extractLsb'_parts (used := 12) (unused := 12) (immOf c.word)).symm

theorem encodes_of_decodeCfg {i : BitVec 4 → BitVec 4 → BitVec 32 → BitVec 32 → Instr} {j : Instr}
    (h : decodeCfg c i = .ok j)
    (henc : ∀ w l a b, encode (i w l a b) = ⟨commandWord o (0#16 ++ (l ++ w)), cfgDin a b⟩)
    (hwf : ∀ w l a b, (i w l a b).wellFormed = true) : Encodes c j := by
  unfold decodeCfg at h
  split_ifs at h with himm hdin
  cases h
  refine ⟨(henc _ _ _ _).trans (command_eq_of_parts ho ?_ (cfgDin_le32 hdin).symm), hwf _ _ _ _⟩
  rw [append_extractLsb'_nibbles, ← himm]
  exact (append_extractLsb'_parts (used := 8) (unused := 16) (immOf c.word)).symm

theorem encodes_of_decodeIndex {i : BitVec 24 → Instr} {j : Instr} (h : decodeIndex c i = .ok j)
    (henc : ∀ n, encode (i n) = ⟨commandWord o n, []⟩) (hwf : ∀ n, (i n).wellFormed = true) : Encodes c j := by
  unfold decodeIndex at h
  split_ifs at h with hdin
  cases h
  exact ⟨(henc _).trans (command_eq_of_parts ho rfl (List.eq_nil_of_length_eq_zero hdin)), hwf _⟩

end Forms

/-- Settles O2: whichever opcode the map of R92 finds, the operand form it gives the command drops no bit of it. -/
theorem encodeInvertsDecode : Obligations.EncodeInvertsDecode := by
  intro c i h
  unfold decode at h
  split at h
  case h_3 ho => exact encodes_of_decodeReg (o := 0x02#8) ho h (fun _ => rfl) fun _ => rfl
  case h_5 ho => exact encodes_of_decodeLoad (o := 0x11#8) ho h (fun _ => rfl) fun _ => rfl
  case h_6 ho => exact encodes_of_decodeByte (o := 0x12#8) ho h (fun _ => rfl) fun _ => rfl
  case h_7 ho => exact encodes_of_decodeAny (o := 0x13#8) ho h rfl rfl
  case h_9 ho => exact encodes_of_decodeCfg (o := 0x20#8) ho h (fun _ _ _ _ => rfl) fun _ _ _ _ => rfl
  case h_10 ho => exact encodes_of_decodeAny (o := 0x21#8) ho h rfl rfl
  case h_14 ho => exact encodes_of_decodeCfg (o := 0x30#8) ho h (fun _ _ _ _ => rfl) fun _ _ _ _ => rfl
  case h_15 ho => exact encodes_of_decodeAny (o := 0x31#8) ho h rfl rfl
  case h_20 ho => exact encodes_of_decodeAny (o := 0x41#8) ho h rfl rfl
  case h_22 ho => exact encodes_of_decodeAny (o := 0x51#8) ho h rfl rfl
  case h_26 ho => exact encodes_of_decodeIndex (o := 0x55#8) ho h (fun _ => rfl) fun _ => rfl
  case h_28 => split_ifs at h
  -- The rest of the map is commands without operands, whose opcode is the one they are encoded with.
  all_goals exact encodes_of_decodeBare (by assumption) h rfl rfl

/-! ## The command cycle (spec/40_sys.md R130, R131) -/

theorem step_of_pending_cons {s : State} {c : Command} {rest : List Command} (h : s.host.pending = c :: rest) :
    step s = execute c (s.issued rest) := by
  rw [step, runNext, h]

theorem step_of_pending_nil {s : State} (h : s.host.pending = []) : step s = .next s := by
  rw [step, runNext, h]

/-- Settles O4: the step takes the first command, and `execute` asks the decoder. -/
theorem stepExecutesTheNextCommand : Obligations.StepExecutesTheNextCommand := by
  refine fun s => ⟨fun c rest i hpending hdec => ?_, fun c rest e hpending hdec => ?_, step_of_pending_nil⟩
  · rw [step_of_pending_cons hpending, execute_of_decode_ok hdec]
    rfl
  · rw [step_of_pending_cons hpending, execute_of_not_accepts (by rw [hdec]; exact not_accepts_error e)]
    rfl

/-- Settles O5: each of the first seven words is the encoding of its instruction, which decodes to it (O1). -/
theorem writtenWordsDecode : Obligations.WrittenWordsDecode :=
  ⟨decodeInvertsEncode .nop rfl, decodeInvertsEncode (.rdreg .hsdStat) rfl,
    decodeInvertsEncode (.crcLoad 0xCBF43926#32) rfl, decodeInvertsEncode (.hsdCfg 8#4 7#4 16#32 2#32) rfl,
    decodeInvertsEncode (.hseSink [0x61, 0x62]) rfl, decodeInvertsEncode (.mpFeed [0xFF]) rfl,
    decodeInvertsEncode (.fdResult 1#24) rfl, rfl⟩

/-! ## RDREG (spec/40_sys.md R133, spec/30_encoding.md R98) -/

theorem exec_rdreg (r : Reg) (s : State) :
    exec (.rdreg r) s = answer s .ok 8 ((List.range 8).map fun k => (regValue r s).extractLsb' (8 * k) 8) := by
  rw [← leBytes_toNat_eq_map_extractLsb' 8 (regValue r s)]
  exact next_reply_eq_answer s .ok 8 (leBytes 8 (regValue r s).toNat)

theorem decode_cmd_rdreg (imm : BitVec 24) (din : List Byte) :
    decode (cmd 0x02#8 imm din) = decodeReg (cmd 0x02#8 imm din) .rdreg := by
  rw [decode, opcodeOf_cmd]; rfl

/-- An IMM that is a register's number is written as that number, zero-extended. -/
theorem imm_eq_zero_append_number {imm : BitVec 24} {r : Reg} (h : r.number.toNat = imm.toNat) :
    imm = 0#12 ++ r.number := by
  apply BitVec.eq_of_toNat_eq
  rw [BitVec.toNat_append]
  simp [h]

theorem execute_rdreg_of_number {imm : BitVec 24} {r : Reg} (h : r.number.toNat = imm.toNat) (din : List Byte)
    (s : State) : execute (cmd 0x02#8 imm din) s = if din = [] then exec (.rdreg r) s else illegal s := by
  split
  next hdin =>
    rw [hdin, imm_eq_zero_append_number h]
    exact execute_of_decode_ok ((decode_cmd_rdreg _ _).trans (decodeReg_cmd_of_number _ r _)) s
  next hdin =>
    refine execute_of_not_accepts (fun haccepts => hdin ?_) s
    rw [decode_cmd_rdreg, decodeReg_accepts_iff] at haccepts
    obtain ⟨-, hlen, -⟩ := haccepts
    exact List.eq_nil_of_length_eq_zero hlen

theorem execute_rdreg_of_unassigned {imm : BitVec 24} (h : imm.toNat ∉ registerNumbers) (din : List Byte) (s : State) :
    execute (cmd 0x02#8 imm din) s = illegal s := by
  refine execute_of_not_accepts (fun haccepts => h ?_) s
  rw [decode_cmd_rdreg, decodeReg_accepts_iff] at haccepts
  obtain ⟨-, -, hassigned⟩ := haccepts
  exact hassigned

/-- Settles O8: the register that the table gives for IMM is the one RDREG decodes to; if there is none, no clause but
R97(e) is needed. -/
theorem rdregRule : Obligations.RdregRule := by
  refine ⟨exec_rdreg, fun imm din s => ?_⟩
  cases hfind : Reg.all.find? (fun r => r.number.toNat == imm.toNat) with
  | some r => exact execute_rdreg_of_number (by simpa using List.find?_some hfind) din s
  | none =>
    refine execute_rdreg_of_unassigned (fun hassigned => ?_) din s
    rw [registerNumbers_eq_map, List.mem_map] at hassigned
    obtain ⟨r, hr, hnumber⟩ := hassigned
    exact List.find?_eq_none.mp hfind r hr (by simpa using hnumber)

/-! ## The registers and their fields (spec/10_state.md R20 to R59) -/

/-- A field below another: the lower one counts as it is, the upper one from its place on. -/
theorem toNat_append_field {n m : Nat} (x : BitVec n) (y : BitVec m) :
    (x ++ y).toNat = y.toNat + 2 ^ m * x.toNat := by
  rw [BitVec.toNat_append, ← Nat.shiftLeft_add_eq_or_of_lt y.isLt, Nat.shiftLeft_eq, Nat.mul_comm, Nat.add_comm]

theorem toNat_flagBit (b : Bool) : (flagBit b).toNat = bit b := by cases b <;> rfl

/-- A register of fewer than 64 bits reads as its own value (spec/30_encoding.md R98). -/
theorem toNat_register {n : Nat} (x : BitVec n) (hn : n ≤ 64 := by decide) : (x.setWidth 64).toNat = x.toNat := by
  rw [BitVec.toNat_setWidth, Nat.mod_eq_of_lt (lt_of_lt_of_le x.isLt (Nat.pow_le_pow_right two_pos hn))]

theorem toNat_cfgWord (b : Bool) (l w : BitVec 4) : (cfgWord b l w).toNat = w.toNat + 16 * l.toNat + 256 * bit b := by
  rw [cfgWord, toNat_append_field, toNat_append_field, toNat_flagBit]
  rfl

theorem bit_congr {b : Bool} {p : Prop} [Decidable p] (h : b = true ↔ p) : bit b = bit (decide p) := by
  rw [← Bool.decide_congr h, Bool.decide_eq_true]

theorem toNat_hsd_stat (u : Hsd) :
    u.stat.toNat = u.dstate.code.toNat + 8 * bit u.finishing + 16 * bit u.misuse +
      32 * bit (decide (u.cfgd = true ∧ u.finishing = true ∧ u.inq = [] ∧ u.dstate ≠ .copy ∧ u.avail < u.need)) := by
  have hdone : (u.cfgd && u.done) = true ↔
      u.cfgd = true ∧ u.finishing = true ∧ u.inq = [] ∧ u.dstate ≠ .copy ∧ u.avail < u.need := by
    rw [Bool.and_eq_true, hsd_done_iff]
  simp only [Hsd.stat, toNat_append_field, toNat_flagBit, bit_congr hdone]
  omega

theorem toNat_hse_stat (u : Hse) :
    u.stat.toNat = bit u.finishing + 2 * bit u.misuse +
      4 * bit (decide (u.cfgd = true ∧ u.finishing = true ∧ u.q = [] ∧ u.nbits = 0#6)) := by
  have hdone : (u.cfgd && u.done) = true ↔ u.cfgd = true ∧ u.finishing = true ∧ u.q = [] ∧ u.nbits = 0#6 := by
    rw [Bool.and_eq_true, hse_done_iff]
  simp only [Hse.stat, toNat_append_field, toNat_flagBit, bit_congr hdone]
  omega

theorem toNat_mpu_stat (m : Mpu) :
    m.stat.toNat = bit m.packing + 2 * bit m.nospace + 4 * bit m.cmdCount + 8 * bit m.cmdActive + 16 * m.fcq.toNat +
      64 * bit m.addSpace + 128 * bit m.nonempty := by
  simp only [Mpu.stat, toNat_append_field, toNat_flagBit]
  omega

theorem toNat_fd_flags (f : Fd) :
    f.flags.toNat = bit f.eof + 2 * bit f.abortReq + 4 * bit f.magicOk + 8 * bit f.misuse + 16 * bit f.hdrDone := by
  simp only [Fd.flags, toNat_append_field, toNat_flagBit]
  omega

/-- The length of a queue within its 32-bit capacity is its level register. -/
theorem toNat_level_of_le_capacity {queue : List Byte} {cap : BitVec 32} (h : queue.length ≤ cap.toNat) :
    (BitVec.ofNat 32 queue.length).toNat = queue.length := by
  rw [BitVec.toNat_ofNat, Nat.mod_eq_of_lt (by omega)]

section RegisterValues

variable (s : State)

theorem hsd_register_values :
    (regValue .hsdCfg s).toNat = s.hsd.w.toNat + 16 * s.hsd.l.toNat + 256 * bit s.hsd.cfgd ∧
    (regValue .hsdInCap s).toNat = s.hsd.inCap.toNat ∧ (regValue .hsdOutCap s).toNat = s.hsd.outCap.toNat ∧
    (regValue .hsdStat s).toNat = s.hsd.dstate.code.toNat + 8 * bit s.hsd.finishing + 16 * bit s.hsd.misuse +
      32 * bit (decide (s.hsd.cfgd = true ∧ s.hsd.finishing = true ∧ s.hsd.inq = [] ∧ s.hsd.dstate ≠ .copy ∧
        s.hsd.avail < s.hsd.need)) ∧
    (s.hsd.inq.length ≤ s.hsd.inCap.toNat → (regValue .hsdInLvl s).toNat = s.hsd.inq.length) ∧
    (regValue .hsdBitReg s).toNat = s.hsd.cur.toNat + 256 * s.hsd.left.toNat ∧
    (regValue .hsdHead s).toNat = s.hsd.head.toNat ∧ (regValue .hsdIndex s).toNat = s.hsd.index.toNat ∧
    (regValue .hsdCount s).toNat = s.hsd.count.toNat :=
  ⟨(toNat_register _).trans (toNat_cfgWord _ _ _), toNat_register _, toNat_register _,
    (toNat_register _).trans (toNat_hsd_stat s.hsd), fun h => (toNat_register _).trans (toNat_level_of_le_capacity h),
    (toNat_register _).trans (toNat_append_field _ _), toNat_register _, toNat_register _, toNat_register _⟩

theorem hse_register_values :
    (regValue .hseCfg s).toNat = s.hse.w.toNat + 16 * s.hse.l.toNat + 256 * bit s.hse.cfgd ∧
    (regValue .hseInCap s).toNat = s.hse.inCap.toNat ∧ (regValue .hseOutCap s).toNat = s.hse.outCap.toNat ∧
    (regValue .hseStat s).toNat = bit s.hse.finishing + 2 * bit s.hse.misuse +
      4 * bit (decide (s.hse.cfgd = true ∧ s.hse.finishing = true ∧ s.hse.q = [] ∧ s.hse.nbits = 0#6)) ∧
    (s.hse.q.length ≤ s.hse.inCap.toNat → (regValue .hseQLvl s).toNat = s.hse.q.length) ∧
    (regValue .hseNBits s).toNat = s.hse.nbits.toNat ∧ (regValue .hseOBits s).toNat = s.hse.obits.toNat :=
  ⟨(toNat_register _).trans (toNat_cfgWord _ _ _), toNat_register _, toNat_register _,
    (toNat_register _).trans (toNat_hse_stat s.hse), fun h => (toNat_register _).trans (toNat_level_of_le_capacity h),
    toNat_register _, toNat_register _⟩

theorem mpu_register_values :
    (regValue .mpStat s).toNat = bit s.mpu.packing + 2 * bit s.mpu.nospace + 4 * bit s.mpu.cmdCount +
      8 * bit s.mpu.cmdActive + 16 * s.mpu.fcq.toNat + 64 * bit s.mpu.addSpace + 128 * bit s.mpu.nonempty ∧
    (regValue .mpCharBuf s).toNat = s.mpu.charBuf.toNat ∧ (regValue .mpLast s).toNat = s.mpu.last.toNat ∧
    (regValue .mpOutLen s).toNat = s.mpu.outLen.toNat :=
  ⟨(toNat_register _).trans (toNat_mpu_stat s.mpu), toNat_register _, toNat_register _, toNat_register _⟩

theorem fd_register_values :
    (regValue .fdPhase s).toNat = s.fd.phase.code.toNat ∧ (regValue .fdCursor s).toNat = s.fd.cursor.toNat ∧
    (regValue .fdMagic s).toNat = s.fd.magic.toNat ∧ (regValue .fdVersion s).toNat = s.fd.version.toNat ∧
    (regValue .fdCkKind s).toNat = s.fd.ckKind.toNat ∧
    (s.fd.results.length < 2 ^ 32 → (regValue .fdNBlocks s).toNat = s.fd.results.length) ∧
    (regValue .fdError s).toNat = s.fd.error.code.toNat ∧
    (regValue .fdFlags s).toNat = bit s.fd.eof + 2 * bit s.fd.abortReq + 4 * bit s.fd.magicOk +
      8 * bit s.fd.misuse + 16 * bit s.fd.hdrDone ∧
    (s.fd.src.length < 2 ^ 64 → (regValue .fdSrcLvl s).toNat = s.fd.src.length) ∧
    (regValue .fdBTypeComp s).toNat = s.fd.btype.toNat + 65536 * s.fd.comp.toNat ∧
    (regValue .fdBUSize s).toNat = s.fd.busize.toNat ∧ (regValue .fdBCSize s).toNat = s.fd.bcsize.toNat ∧
    (regValue .fdBParam s).toNat = s.fd.bparam.toNat ∧ (regValue .fdBCrc s).toNat = s.fd.bcrc.toNat :=
  ⟨toNat_register _, rfl, toNat_register _, toNat_register _, toNat_register _,
    fun h => (toNat_register _).trans (Nat.mod_eq_of_lt h), toNat_register _,
    (toNat_register _).trans (toNat_fd_flags s.fd), fun h => Nat.mod_eq_of_lt h,
    (toNat_register _).trans (toNat_append_field _ _), toNat_register _, toNat_register _, toNat_register _,
    toNat_register _⟩

end RegisterValues

theorem mem_reg_all (r : Reg) : r ∈ Reg.all := by cases r <;> decide

/-- Settles O9: the numbers and codes of the tables, and the registers unit by unit. -/
theorem registerNumbersAndFields : Obligations.RegisterNumbersAndFields :=
  ⟨rfl, mem_reg_all, rfl, rfl, rfl, rfl, fun s => ⟨⟨rfl, toNat_register s.crcAcc⟩,
    hsd_register_values s, hse_register_values s, mpu_register_values s, fd_register_values s⟩⟩

end Sys2Proof.Proofs

/-! PROOFS of the statements about the CRC update and the unpacker (spec/41_crc.md R151, R153,
spec/45_framing_dispatcher.md R316, spec/44_meatpack.md R251 to R260). The CRC: every step of the update is injective.
The unpacker: one equation for `emit`, and what every part of `mp_byte` keeps is shown part by part. -/

namespace Sys2Proof.Proofs

open Sys2Proof.Machine Sys2Proof.Claims

/-! ## The CRC update bit by bit (R151) -/

theorem crcShift_eq_crcBit (c : BitVec 32) : crcShift c = crcBit c := by
  have hbit : c.toNat % 2 = 1 ↔ c.getLsbD 0 = true := by
    rw [BitVec.getLsbD, Nat.testBit_zero, decide_eq_true_iff]
  simp only [crcShift, crcBit, hbit, crcPoly]

theorem foldl_crcShift (l : List Nat) (c : BitVec 32) :
    l.foldl (fun c _ => crcShift c) c = crcBits l.length c := by
  induction l generalizing c with
  | nil => rfl
  | cons _ l ih => rw [List.foldl_cons, ih, crcShift_eq_crcBit, List.length_cons, crcBits]

theorem crcEat_eq_crcByte : crcEat = crcByte := by
  funext c b
  rw [crcEat, foldl_crcShift, List.length_range, crcByte]

/-- The check value of R153: the CRC of "123456789". -/
theorem crcUpdate_check :
    crcUpdate 0#32 [0x31, 0x32, 0x33, 0x34, 0x35, 0x36, 0x37, 0x38, 0x39] = 0xCBF43926#32 := by decide +kernel

/-- Settles O21: eight shifts are the model's byte update, and updates chain (O19). -/
theorem crcChains : Obligations.CrcChains := by
  refine ⟨fun acc s => ?_, crcUpdate_append 0#32, crcUpdate_nil 0#32, crcUpdate_check⟩
  rw [crcEat_eq_crcByte, crcUpdate]

/-! ## The CRC update loses nothing (spec/45_framing_dispatcher.md R316) -/

theorem crcBit_getLsbD (c : BitVec 32) (k : Nat) :
    (crcBit c).getLsbD k = (c.getLsbD (k + 1) ^^ (c.getLsbD 0 && crcPoly.getLsbD k)) := by
  have hshift : (c >>> 1).getLsbD k = c.getLsbD (k + 1) := by rw [BitVec.getLsbD_ushiftRight, Nat.add_comm]
  rw [crcBit]
  split
  next hone => rw [BitVec.getLsbD_xor, hshift, hone, Bool.true_and]
  next hzero => rw [hshift, Bool.eq_false_of_not_eq_true hzero, Bool.false_and, Bool.xor_false]

/-- The bit shifted out comes back as the highest bit, because the polynomial has that bit; the others follow. -/
theorem crcBit_injective : Function.Injective crcBit := by
  intro a b h
  have hlow : a.getLsbD 0 = b.getLsbD 0 := by
    have hhigh : (crcBit a).getLsbD 31 = (crcBit b).getLsbD 31 := by rw [h]
    have hpoly : crcPoly.getLsbD 31 = true := rfl
    rwa [crcBit_getLsbD, crcBit_getLsbD, hpoly, BitVec.getLsbD_of_ge a 32 le_rfl, BitVec.getLsbD_of_ge b 32 le_rfl,
      Bool.false_xor, Bool.false_xor, Bool.and_true, Bool.and_true] at hhigh
  apply BitVec.eq_of_getLsbD_eq
  intro k _
  cases k with
  | zero => exact hlow
  | succ k =>
    have hk := congrArg (·.getLsbD k) h
    simpa only [crcBit_getLsbD, hlow, Bool.xor_left_inj] using hk

theorem crcBits_injective (n : Nat) : Function.Injective (crcBits n) := by
  induction n with
  | zero => exact Function.injective_id
  | succ n ih => exact ih.comp crcBit_injective

theorem crcByte_injective_left (b : Byte) : Function.Injective fun c => crcByte c b := fun _ _ h =>
  (BitVec.xor_left_inj _).mp (crcBits_injective 8 h)

theorem crcByte_injective_right (c : BitVec 32) : Function.Injective (crcByte c) := by
  intro x y h
  have hwide : x.setWidth 32 = y.setWidth 32 := (BitVec.xor_right_inj _).mp (crcBits_injective 8 h)
  simpa using congrArg (BitVec.setWidth 8) hwide

theorem foldl_crcByte_injective (s : List Byte) : Function.Injective fun c => s.foldl crcByte c := by
  induction s with
  | nil => exact Function.injective_id
  | cons b s ih => exact ih.comp (crcByte_injective_left b)

/-- Settles O22: the changed byte makes the accumulators differ, and the bytes after it keep them apart. -/
theorem crcDetectsOneByte : Obligations.CrcDetectsOneByte := by
  intro acc a b x y hxy h
  have hfold := (BitVec.xor_left_inj _).mp h
  rw [List.foldl_append, List.foldl_append, List.foldl_cons, List.foldl_cons] at hfold
  exact hxy (crcByte_injective_right _ (foldl_crcByte_injective b hfold))

/-! ## One part of the unpacker's work after another -/

theorem andThen_assoc (a : MpOut) (f g : Mpu → MpOut) :
    (a.andThen f).andThen g = a.andThen fun m => (f m).andThen g := by
  simp only [MpOut.andThen, List.append_assoc]

theorem silent_andThen (m : Mpu) (f : Mpu → MpOut) : m.silent.andThen f = f m := rfl

theorem andThen_silent (a : MpOut) : a.andThen Mpu.silent = a := by
  rw [MpOut.andThen, Mpu.silent, List.append_nil]

theorem feed_cons (nl : Bool) (c : Byte) (cs : List Byte) (m : Mpu) :
    m.feed nl (c :: cs) = (m.byte nl c).andThen (Mpu.feed nl cs) := rfl

theorem feed_append (nl : Bool) (a b : List Byte) (m : Mpu) :
    m.feed nl (a ++ b) = (m.feed nl a).andThen (Mpu.feed nl b) := by
  induction a generalizing m with
  | nil => rfl
  | cons c a ih =>
    rw [List.cons_append, feed_cons, feed_cons, andThen_assoc]
    exact congrArg _ (funext ih)

theorem foldl_unit_feed (nl : Bool) (chunks : List (List Byte)) (m : Mpu) :
    (m.feed nl chunks.flatten).unit = chunks.foldl (fun u c => (u.feed nl c).unit) m := by
  induction chunks generalizing m with
  | nil => rfl
  | cons c chunks ih => rw [List.flatten_cons, feed_append, MpOut.andThen_unit, ih, List.foldl_cons]

theorem foldl_seq_feed (nl : Bool) (chunks : List (List Byte)) (a : MpOut) :
    chunks.foldl (fun a c => seq a (Mpu.feed nl c)) a = a.andThen (Mpu.feed nl chunks.flatten) := by
  induction chunks generalizing a with
  | nil => exact (andThen_silent a).symm
  | cons c chunks ih =>
    rw [List.foldl_cons, ih, List.flatten_cons, funext (feed_append nl c chunks.flatten), ← andThen_assoc]
    rfl

/-- Settles O43: feeding an append is feeding its parts in turn. -/
theorem mpFeedChunks : Obligations.MpFeedChunks := fun nl m chunks =>
  ⟨foldl_unit_feed nl chunks m, by rw [foldl_seq_feed]; rfl⟩

/-! ## The rules of the parts (R257 to R259) -/

theorem byteRule (nl : Bool) (c : Byte) (m : Mpu) : ByteRule nl c m := by
  have hdata : (m.reinject nl).andThen (Mpu.rx nl c) =
      if m.cmdCount = true then seq (m.rx nl 0xFF#8) fun m1 => Mpu.rx nl c { m1 with cmdCount := false }
      else m.rx nl c := by
    rw [Mpu.reinject]
    split
    next => exact andThen_assoc _ _ _
    next => exact silent_andThen m _
  rw [ByteRule, Mpu.byte, hdata]
  rfl

theorem emitHeld_andThen (m : Mpu) (f : Mpu → MpOut) :
    m.emitHeld.andThen f =
      if m.charBuf ≠ 0#8 then (m.emit m.charBuf).andThen fun m1 => f { m1 with charBuf := 0#8 } else f m := by
  rw [Mpu.emitHeld]
  split
  next => exact andThen_assoc _ _ _
  next => exact silent_andThen m f

theorem fcq_pos_iff (m : Mpu) : 0 < m.fcq.toNat ↔ m.fcq ≠ 0#2 := by
  rw [Nat.pos_iff_ne_zero, ne_eq, ne_eq, ← BitVec.toNat_inj]
  rfl

theorem rxRule (nl : Bool) (c : Byte) (m : Mpu) : RxRule nl c m := by
  simp only [RxRule, Mpu.rx, fcq_pos_iff, andThen_assoc, emitHeld_andThen]
  rfl

theorem loNibble_eq_ofNat (c : Byte) : loNibble c = BitVec.ofNat 4 (c.toNat % 16) := by
  apply BitVec.eq_of_toNat_eq
  simp [loNibble]

theorem hiNibble_eq_ofNat (c : Byte) : hiNibble c = BitVec.ofNat 4 (c.toNat / 16) := by
  apply BitVec.eq_of_toNat_eq
  simp [hiNibble, Nat.shiftRight_eq_div_pow]

/-- A nibble is the escape 0xF exactly when its number is 15. -/
theorem ofNat_eq_escape_iff {n : Nat} (h : n < 16) : BitVec.ofNat 4 n = 0xF#4 ↔ n = 15 := by
  rw [← BitVec.toNat_inj, BitVec.toNat_ofNat, Nat.mod_eq_of_lt h]
  rfl

theorem unpackRule (nl : Bool) (c : Byte) (m : Mpu) : UnpackRule nl c m := by
  have hc := c.isLt
  simp only [UnpackRule, Mpu.unpack, loNibble_eq_ofNat, hiNibble_eq_ofNat,
    ofNat_eq_escape_iff (n := c.toNat % 16) (by omega), ofNat_eq_escape_iff (n := c.toNat / 16) (by omega)]
  rfl

/-! ## MP_FEED (R254) -/

theorem exec_mpFeed (din : List Byte) (s : State) :
    exec (.mpFeed din) s =
      answer { s with
          mpu := (s.mpu.feed s.mpNlSkip din).unit
          host := { s.host with draws := drawsAfter s.host.draws (s.mpu.feed s.mpNlSkip din).dout } }
        .ok (doutCount s.host.draws (s.mpu.feed s.mpNlSkip din).dout).toNat (s.mpu.feed s.mpNlSkip din).dout := by
  rw [← next_reply_eq_answer, BitVec.ofNat_toNat, BitVec.setWidth_eq]
  rfl

theorem exec_mpFeed_of_short {din : List Byte} {s : State}
    (h : (s.mpu.feed s.mpNlSkip din).dout.length < 2 ^ 32) :
    exec (.mpFeed din) s = answer { s with mpu := (s.mpu.feed s.mpNlSkip din).unit } .ok
      (s.mpu.feed s.mpNlSkip din).dout.length (s.mpu.feed s.mpNlSkip din).dout := by
  rw [exec_mpFeed, drawsAfter_of_lt h, doutCount_of_lt h, BitVec.toNat_ofNat, Nat.mod_eq_of_lt h]

theorem encodedAny_mpFeed : EncodedAny 0x41#8 .mpFeed :=
  encodedAny_of_decode fun imm din => by rw [decode, opcodeOf_cmd]; rfl

/-- Settles O42: the equation of MP_FEED and those of the parts of `mp_byte`. -/
theorem mpFeedRule : Obligations.MpFeedRule :=
  ⟨encodedAny_mpFeed, fun din s => ⟨exec_mpFeed_of_short, _, _, exec_mpFeed din s, rfl⟩, fun _ _ => rfl,
    fun _ _ _ _ => rfl, fun nl c m => ⟨byteRule nl c m, rxRule nl c m, unpackRule nl c m⟩, fun _ _ => rfl⟩

/-! ## The tables (R251, R252) -/

theorem command_of_no_effect {c : Byte} (m : Mpu) (h : c ∉ [0xFB#8, 0xFA#8, 0xF9#8, 0xF7#8, 0xF6#8]) :
    m.command c = m := by
  simp only [List.mem_cons, List.not_mem_nil, or_false, not_or] at h
  obtain ⟨hFB, hFA, hF9, hF7, hF6⟩ := h
  rw [Mpu.command, if_neg hFB, if_neg hFA, if_neg hF9, if_neg hF7, if_neg hF6]

/-- Settles O45: the tables row by row; a byte in no row does nothing. -/
theorem mpTables : Obligations.MpTables :=
  ⟨fun _ => rfl, fun _ => ⟨rfl, rfl, rfl, rfl, rfl⟩, fun m _ => command_of_no_effect m⟩

/-! ## `emit(ch)` (R260) -/

/-- ADD_SPACE after `ch` has been noted. -/
def lineAfter (ch : Byte) (m : Mpu) : Bool :=
  if ch = 0x47#8 ∧ (m.nonempty = false ∨ m.last = 0x0A#8) then true else if ch = 0x0A#8 then false else m.addSpace

/-- A space is due before `ch`. -/
abbrev SpaceDue (ch : Byte) (m : Mpu) : Prop :=
  lineAfter ch m = true ∧ (m.nonempty = false ∨ m.last ≠ 0x20#8) ∧ isParameterLetter ch = true

/-- `ch` is a newline after a newline. -/
abbrev DoubleNewline (ch : Byte) (m : Mpu) : Prop := ch = 0x0A#8 ∧ m.nonempty = true ∧ m.last = 0x0A#8

theorem noteLine_eq (ch : Byte) (m : Mpu) : m.noteLine ch = { m with addSpace := lineAfter ch m } := by
  unfold Mpu.noteLine lineAfter
  split_ifs <;> rfl

theorem restoreSpace_noteLine_of_due {ch : Byte} {m : Mpu} (h : SpaceDue ch m) :
    (m.noteLine ch).restoreSpace ch = Mpu.out 0x20#8 { m with addSpace := lineAfter ch m } := by
  rw [noteLine_eq]
  exact if_pos h

theorem restoreSpace_noteLine_of_not_due {ch : Byte} {m : Mpu} (h : ¬ SpaceDue ch m) :
    (m.noteLine ch).restoreSpace ch = Mpu.silent { m with addSpace := lineAfter ch m } := by
  rw [noteLine_eq]
  exact if_neg h

theorem outUnlessDouble_of_double {ch : Byte} {m : Mpu} (h : DoubleNewline ch m) : m.outUnlessDouble ch = m.silent := by
  obtain ⟨hch, hnonempty, hlast⟩ := h
  exact if_neg (by simp [hch, hnonempty, hlast])

theorem outUnlessDouble_of_not_double {ch : Byte} {m : Mpu} (h : ¬ DoubleNewline ch m) :
    m.outUnlessDouble ch = m.out ch := by
  refine if_pos ?_
  simp only [DoubleNewline, not_and] at h
  by_cases hch : ch = 0x0A#8
  · cases hn : m.nonempty with
    | false => exact .inr (.inl rfl)
    | true => exact .inr (.inr (h hch hn))
  · exact .inl hch

theorem not_double_of_spaceDue {ch : Byte} {m : Mpu} (h : SpaceDue ch m) (m' : Mpu) : ¬ DoubleNewline ch m' := by
  obtain ⟨-, -, hletter⟩ := h
  rintro ⟨rfl, -⟩
  exact absurd hletter (by decide)

/-- What `emit(ch)` outputs and leaves: a space if one is due, `ch` unless it is a second newline. -/
theorem emit_cases (ch : Byte) (m : Mpu) :
    (SpaceDue ch m ∧ ¬ DoubleNewline ch m ∧ m.emit ch = ⟨{ m with
        addSpace := lineAfter ch m, nonempty := true, last := ch, outLen := m.outLen + 2#32 }, [0x20#8, ch]⟩) ∨
      (¬ SpaceDue ch m ∧ ¬ DoubleNewline ch m ∧ m.emit ch = ⟨{ m with
        addSpace := lineAfter ch m, nonempty := true, last := ch, outLen := m.outLen + 1#32 }, [ch]⟩) ∨
      (¬ SpaceDue ch m ∧ DoubleNewline ch m ∧ m.emit ch = ⟨{ m with addSpace := lineAfter ch m }, []⟩) := by
  by_cases hspace : SpaceDue ch m
  · refine .inl ⟨hspace, not_double_of_spaceDue hspace m, ?_⟩
    rw [Mpu.emit, restoreSpace_noteLine_of_due hspace, MpOut.andThen,
      outUnlessDouble_of_not_double (not_double_of_spaceDue hspace _)]
    simp [Mpu.out, BitVec.add_assoc]
  · rw [Mpu.emit, restoreSpace_noteLine_of_not_due hspace, silent_andThen]
    by_cases hdouble : DoubleNewline ch m
    · exact .inr (.inr ⟨hspace, hdouble, outUnlessDouble_of_double (m := { m with addSpace := _ }) hdouble⟩)
    · exact .inr (.inl ⟨hspace, hdouble, outUnlessDouble_of_not_double (m := { m with addSpace := _ }) hdouble⟩)

theorem emit_unit (ch : Byte) (m : Mpu) :
    (m.emit ch).unit = { m with
      addSpace := lineAfter ch m
      nonempty := true
      last := ch
      outLen := m.outLen + BitVec.ofNat 32 (m.emit ch).dout.length } := by
  obtain ⟨-, -, h⟩ | ⟨-, -, h⟩ | ⟨-, ⟨hch, hnonempty, hlast⟩, h⟩ := emit_cases ch m <;> rw [h]
  · rfl
  · rfl
  · simp [hch, ← hnonempty, ← hlast]

theorem spaceDue_iff (ch : Byte) (m : Mpu) :
    SpaceDue ch m ↔ lineAfter ch m = true ∧ (m.nonempty = false ∨ m.last ≠ 0x20#8) ∧
      ch ∈ [0x58#8, 0x59#8, 0x5A#8, 0x45#8, 0x46#8, 0x49#8, 0x4A#8, 0x52#8, 0x50#8, 0x57#8, 0x48#8, 0x43#8,
        0x41#8] := by
  rw [SpaceDue, isParameterLetter, List.contains_iff_mem]

/-- Settles O44: the three outcomes of `emit`. -/
theorem mpEmitRule : Obligations.MpEmitRule := by
  intro ch m
  obtain ⟨hspace, hdouble, h⟩ | ⟨hspace, hdouble, h⟩ | ⟨hspace, hdouble, h⟩ := emit_cases ch m
  · refine ⟨lineAfter ch m, true, rfl, by simpa only [true_iff] using (spaceDue_iff ch m).mp hspace, ?_, emit_unit ch m⟩
    rw [h, if_pos rfl, if_neg hdouble]
    rfl
  · refine ⟨lineAfter ch m, false, rfl, ⟨nofun, fun hdue => absurd ((spaceDue_iff ch m).mpr hdue) hspace⟩, ?_,
      emit_unit ch m⟩
    rw [h, if_neg nofun, if_neg hdouble]
    rfl
  · refine ⟨lineAfter ch m, false, rfl, ⟨nofun, fun hdue => absurd ((spaceDue_iff ch m).mpr hdue) hspace⟩, ?_,
      emit_unit ch m⟩
    rw [h, if_neg nofun, if_pos hdouble]
    rfl

/-! ## The text has no newline after a newline (R260) -/

/-- Not both of two bytes are newlines. -/
abbrev NotBothNewlines (a b : Byte) : Prop := ¬ (a = 0x0A#8 ∧ b = 0x0A#8)

/-- `m` has output `text`: LAST is its last byte, and no newline of it follows a newline. -/
structure HasOutput (m : Mpu) (text : List Byte) : Prop where
  tidy : text.IsChain NotBothNewlines
  last : ∀ b ∈ text.getLast?, m.nonempty = true ∧ m.last = b

/-- What a part of the unpacker's work leaves goes on with the text. -/
def Continues (text : List Byte) (r : MpOut) : Prop := HasOutput r.unit (text ++ r.dout)

/-- A byte output stands last, and it may be a newline only where none stood. -/
theorem hasOutput_append_byte {m m' : Mpu} {text : List Byte} {b : Byte} (h : HasOutput m text)
    (hb : ¬ DoubleNewline b m) (hnonempty : m'.nonempty = true) (hlast : m'.last = b) :
    HasOutput m' (text ++ [b]) where
  tidy := by
    refine List.isChain_append.mpr ⟨h.tidy, List.isChain_singleton b, fun a ha y hy => ?_⟩
    obtain rfl : b = y := by simpa using hy
    obtain ⟨hn, rfl⟩ := h.last a ha
    exact fun ⟨hnewline, hagain⟩ => hb ⟨hagain, hn, hnewline⟩
  last a ha := by
    rw [List.getLast?_concat, Option.mem_some_iff] at ha
    exact ⟨hnonempty, hlast.trans ha⟩

/-- A command sets modes alone. -/
theorem command_kept (m : Mpu) (c : Byte) :
    (m.command c).nonempty = m.nonempty ∧ (m.command c).last = m.last ∧ (m.command c).outLen = m.outLen ∧
      (m.command c).fcq = m.fcq ∧ (m.command c).charBuf = m.charBuf := by
  unfold Mpu.command
  split_ifs <;> exact ⟨rfl, rfl, rfl, rfl, rfl⟩

section Continues

variable {m : Mpu} {text : List Byte} (h : HasOutput m text)

theorem continues_andThen {a : MpOut} {f : Mpu → MpOut} (ha : Continues text a)
    (hf : ∀ {m' : Mpu} {text' : List Byte}, HasOutput m' text' → Continues text' (f m')) :
    Continues text (a.andThen f) := by
  have hboth := hf ha
  rwa [Continues, List.append_assoc] at hboth

include h

theorem continues_emit (ch : Byte) : Continues text (m.emit ch) := by
  unfold Continues
  obtain ⟨-, hdouble, heq⟩ | ⟨-, hdouble, heq⟩ | ⟨-, -, heq⟩ := emit_cases ch m <;> rw [heq]
  · have hblank : (0x20#8 : Byte) ≠ 0x0A#8 := by decide
    have hspace : HasOutput { m with nonempty := true, last := 0x20#8 } (text ++ [0x20#8]) :=
      hasOutput_append_byte h (fun ⟨hnewline, _⟩ => hblank hnewline) rfl rfl
    have hch := hasOutput_append_byte (b := ch) hspace (fun ⟨_, _, hnewline⟩ => hblank hnewline)
      (m' := { m with addSpace := lineAfter ch m, nonempty := true, last := ch, outLen := m.outLen + 2#32 }) rfl rfl
    rwa [List.append_assoc] at hch
  · exact hasOutput_append_byte h hdouble rfl rfl
  · rw [List.append_nil]
    exact ⟨h.tidy, h.last⟩

/-- Registers other than NONEMPTY and LAST may change. -/
theorem continues_silent {m' : Mpu} (hnonempty : m'.nonempty = m.nonempty) (hlast : m'.last = m.last) :
    Continues text m'.silent := by
  rw [Continues, Mpu.silent_dout, List.append_nil, Mpu.silent_unit]
  exact ⟨h.tidy, by rw [hnonempty, hlast]; exact h.last⟩

theorem continues_unpack (nl : Bool) (c : Byte) : Continues text (m.unpack nl c) := by
  unfold Mpu.unpack
  split_ifs
  · exact continues_silent h rfl rfl
  · exact continues_silent h rfl rfl
  · exact continues_andThen (continues_emit h _) fun h1 => continues_silent h1 rfl rfl
  · exact continues_andThen (continues_emit h _) fun h1 => continues_silent h1 rfl rfl
  · exact continues_andThen (continues_emit h _) fun h1 => continues_emit h1 _

theorem continues_emitHeld : Continues text m.emitHeld := by
  unfold Mpu.emitHeld
  split_ifs
  · exact continues_andThen (continues_emit h _) fun h1 => continues_silent h1 rfl rfl
  · exact continues_silent h rfl rfl

theorem continues_rx (nl : Bool) (c : Byte) : Continues text (m.rx nl c) := by
  unfold Mpu.rx
  split_ifs
  · exact continues_emit h c
  · exact continues_andThen (continues_andThen (continues_emit h c) continues_emitHeld)
      fun h1 => continues_silent h1 rfl rfl
  · exact continues_unpack h nl c

theorem continues_reinject (nl : Bool) : Continues text (m.reinject nl) := by
  unfold Mpu.reinject
  split_ifs
  · exact continues_andThen (continues_rx h nl 0xFF#8) fun h1 => continues_silent h1 rfl rfl
  · exact continues_silent h rfl rfl

theorem continues_byte (nl : Bool) (c : Byte) : Continues text (m.byte nl c) := by
  unfold Mpu.byte
  split_ifs
  · exact continues_silent h rfl rfl
  · exact continues_silent h rfl rfl
  · obtain ⟨hnonempty, hlast, -⟩ := command_kept m c
    exact continues_silent h hnonempty hlast
  · exact continues_andThen (continues_reinject h nl) fun h1 => continues_rx h1 nl c

end Continues

theorem continues_feed {m : Mpu} {text : List Byte} (h : HasOutput m text) (nl : Bool) (s : List Byte) :
    Continues text (m.feed nl s) := by
  induction s generalizing m text with
  | nil => exact continues_silent h rfl rfl
  | cons c s ih => exact continues_andThen (continues_byte h nl c) ih

/-- Settles O46: a fresh unpacker has output nothing, and feeding goes on with the text. -/
theorem mpNoDoubleNewline : Obligations.MpNoDoubleNewline := fun nl s =>
  (continues_feed (m := Mpu.cleared) (text := []) ⟨List.isChain_nil, nofun⟩ nl s).tidy

/-! ## The invariant of MPU (spec/10_state.md R42 to R45) -/

/-- `emit` touches neither FCQ nor the held character, and it sets NONEMPTY. -/
theorem mpu_inv_emit {m : Mpu} (h : m.Inv) (ch : Byte) : (m.emit ch).unit.Inv := by
  rw [emit_unit]
  exact { fcq_le := h.fcq_le, held := h.held, nothingOut := nofun }

theorem emit_fcq (ch : Byte) (m : Mpu) : (m.emit ch).unit.fcq = m.fcq := by rw [emit_unit]

theorem emit_charBuf (ch : Byte) (m : Mpu) : (m.emit ch).unit.charBuf = m.charBuf := by rw [emit_unit]

/-- Awaiting `n` full characters, with one held only if one is awaited. -/
theorem mpu_inv_await {m : Mpu} (h : m.Inv) {n : BitVec 2} {held : Byte} (hn : n.toNat ≤ 2)
    (hheld : held ≠ 0#8 → n = 1#2) : { m with fcq := n, charBuf := held }.Inv :=
  { fcq_le := hn, held := hheld, nothingOut := h.nothingOut }

/-- No character is held while none is awaited. -/
theorem charBuf_eq_zero_of_fcq {m : Mpu} (h : m.Inv) (hfcq : m.fcq ≠ 1#2) : m.charBuf = 0#8 :=
  not_not.mp fun hheld => hfcq (h.held hheld)

theorem mpu_inv_unpack {m : Mpu} (h : m.Inv) (hfcq : m.fcq = 0#2) (nl : Bool) (c : Byte) :
    (m.unpack nl c).unit.Inv := by
  have hbuf : m.charBuf = 0#8 := charBuf_eq_zero_of_fcq h (by rw [hfcq]; decide)
  unfold Mpu.unpack
  split_ifs
  · exact mpu_inv_await h (by rw [hfcq]; decide) fun hheld => absurd hbuf hheld
  · exact mpu_inv_await h (by rw [hfcq]; decide) fun _ => by rw [hfcq]; rfl
  · exact mpu_inv_emit h _
  · refine mpu_inv_await (mpu_inv_emit h _) (by rw [emit_fcq, hfcq]; decide) fun hheld => absurd hbuf ?_
    rwa [emit_charBuf] at hheld
  · exact mpu_inv_emit (mpu_inv_emit h _) _

/-- After a full character no character is held, and one fewer is awaited. -/
theorem mpu_inv_full {m : Mpu} (h : m.Inv) (hfcq : m.fcq ≠ 0#2) :
    { m.emitHeld.unit with fcq := m.emitHeld.unit.fcq - 1#2 }.Inv := by
  have hle : (m.fcq - 1#2).toNat ≤ 2 := by
    have := h.fcq_le
    have := (fcq_pos_iff m).mpr hfcq
    rw [BitVec.toNat_sub, BitVec.toNat_ofNat]
    omega
  unfold Mpu.emitHeld
  split_ifs with hheld
  · have hone : m.fcq = 1#2 := h.held hheld
    have hemit := mpu_inv_emit h m.charBuf
    exact mpu_inv_await hemit (held := 0#8) (by rw [MpOut.andThen_unit, Mpu.silent_unit, emit_fcq]; exact hle)
      fun hne => absurd rfl hne
  · exact mpu_inv_await h hle fun hne => absurd hne hheld

theorem mpu_inv_rx {m : Mpu} (h : m.Inv) (nl : Bool) (c : Byte) : (m.rx nl c).unit.Inv := by
  unfold Mpu.rx
  split_ifs with hpacking hfcq
  · exact mpu_inv_emit h c
  · exact mpu_inv_full (mpu_inv_emit h c) (by rwa [emit_fcq])
  · exact mpu_inv_unpack h (not_not.mp hfcq) nl c

/-- The signal and command registers have no part in the invariant. -/
theorem mpu_inv_command {m : Mpu} (h : m.Inv) (c : Byte) : (m.command c).Inv := by
  obtain ⟨hnonempty, hlast, houtLen, hfcq, hbuf⟩ := command_kept m c
  exact { fcq_le := by rw [hfcq]; exact h.fcq_le, held := by rw [hfcq, hbuf]; exact h.held,
          nothingOut := by rw [hnonempty, hlast, houtLen]; exact h.nothingOut }

theorem mpu_inv_signals {m : Mpu} (h : m.Inv) (count active : Bool) :
    { m with cmdCount := count, cmdActive := active }.Inv :=
  { fcq_le := h.fcq_le, held := h.held, nothingOut := h.nothingOut }

theorem mpu_inv_byte {m : Mpu} (h : m.Inv) (nl : Bool) (c : Byte) : (m.byte nl c).unit.Inv := by
  unfold Mpu.byte
  split_ifs
  · exact mpu_inv_signals h false true
  · exact mpu_inv_signals h true m.cmdActive
  · exact mpu_inv_signals (mpu_inv_command h c) _ false
  · rw [MpOut.andThen_unit]
    refine mpu_inv_rx ?_ nl c
    unfold Mpu.reinject
    split_ifs
    · exact mpu_inv_signals (mpu_inv_rx h nl 0xFF#8) false _
    · exact h

theorem mpu_inv_feed {m : Mpu} (h : m.Inv) (nl : Bool) (s : List Byte) : (m.feed nl s).unit.Inv := by
  induction s generalizing m with
  | nil => exact h
  | cons c s ih => exact ih (mpu_inv_byte h nl c)

theorem mpu_inv_cleared : Mpu.cleared.Inv where
  fcq_le := Nat.zero_le 2
  held h := absurd rfl h
  nothingOut _ := ⟨rfl, rfl⟩

end Sys2Proof.Proofs

/-! PROOFS of the statements about the dispatcher's commands, steps and runs (spec/45_framing_dispatcher.md R294 to
R312). FD_STEP answers what its phase answers, one equation per phase in the claims' words; FD_RUN's loop has steps
enough, because an OK step consumes bytes or moves a block on towards its end. -/

namespace Sys2Proof.Proofs

open Sys2Proof.Machine Sys2Proof.Claims

/-! ## FD_PUSH, FD_EOF and FD_ABORT (R294 to R296) -/

/-- The phases FILE_HDR to CRC (R294). -/
theorem isActive_iff (p : Phase) : p.isActive = true ↔ p = .fileHdr ∨ p = .blkHdr ∨ p.inBlock := by
  cases p <;> simp [Phase.isActive, Phase.inBlock]

theorem isActive_eq_false_iff (p : Phase) : p.isActive = false ↔ ¬ (p = .fileHdr ∨ p = .blkHdr ∨ p.inBlock) := by
  rw [← isActive_iff, Bool.not_eq_true]

section Ready

variable {s : State} (h : ¬ (s.fd.phase.isActive = false ∨ s.fd.eof = true))

include h

theorem exec_fdPush_of_too_long {din : List Byte}
    (hlong : 2 ^ 64 ≤ s.fd.cursor.toNat + s.fd.src.length + din.length) :
    exec (.fdPush din) s = .refused .sourceTooLong :=
  (if_neg h).trans (if_pos hlong)

theorem exec_fdPush_of_fits {din : List Byte}
    (hfits : ¬ 2 ^ 64 ≤ s.fd.cursor.toNat + s.fd.src.length + din.length) :
    exec (.fdPush din) s = answer { s with fd := { s.fd with src := s.fd.src ++ din } } .ok din.length [] :=
  (if_neg h).trans (if_neg hfits)

theorem exec_fdEof_of_ready : exec .fdEof s = answer { s with fd := { s.fd with eof := true } } .ok 0 [] := if_neg h

end Ready

/-- Settles O48: the outcomes of FD_PUSH and FD_EOF in the order of R294 and R295. -/
theorem fdPushAndEofRules : Obligations.FdPushAndEofRules := by
  refine ⟨encodedAny_of_decode fun imm din => by rw [decode, opcodeOf_cmd]; rfl,
    encodedBare_of_decode fun imm din => by rw [decode, opcodeOf_cmd]; rfl, fun din s => ?_⟩
  simp only [← isActive_eq_false_iff]
  by_cases h : s.fd.phase.isActive = false ∨ s.fd.eof = true
  · rw [if_pos h, if_pos h]
    exact ⟨exec_fdPush_of_misuse h din, exec_fdEof_of_misuse h⟩
  · rw [if_neg h, if_neg h]
    refine ⟨?_, exec_fdEof_of_ready h⟩
    split
    next hlong => exact exec_fdPush_of_too_long h hlong
    next hfits => exact exec_fdPush_of_fits h hfits

/-- Settles O49: ABORT_REQ is set as the phase says. -/
theorem fdAbortRule : Obligations.FdAbortRule := by
  refine ⟨encodedBare_of_decode fun imm din => by rw [decode, opcodeOf_cmd]; rfl, fun s => ?_⟩
  simp only [← isActive_iff]
  split
  next hactive =>
    rw [exec, execFdAbort, hactive, Bool.or_true]
    exact next_reply_eq_answer { s with fd := { s.fd with abortReq := true } } .ok 0 []
  next hinactive => exact exec_fdAbort_of_inactive (Bool.eq_false_of_not_eq_true hinactive)

/-! ## FD_STEP in the claims' words (R298, R299) -/

theorem fdRespond_fdFatal (code : FatalCode) (t : State) (n : Nat) :
    fdRespond (fdFatal code t n) = fatal code t t.fd n := rfl

theorem fdRespond_fdRead (n : Nat) (code : FatalCode) (s : State) (next : List Byte → State → FdAnswer) :
    fdRespond (fdRead n code s next) = phaseRead n code s fun h f => fdRespond (next h (s.withFd f)) := by
  rw [fdRead, phaseRead]
  split_ifs <;> rfl

theorem exec_fdStep_of_phase {s : State} {p : Phase} {a : FdAnswer} (h : s.fd.phase = p)
    (hstep : s.fd.phase = p → fdStep s = a) : exec .fdStep s = fdRespond a := by
  rw [exec, execFdStep, hstep h]

section Phases

variable {s : State}

theorem fdStep_of_idle (h : s.fd.phase = .idle) : fdStep s = fdReturn s.setFdMisuse .misuse 0 := by rw [fdStep, h]

theorem fdStep_of_fileHdr (h : s.fd.phase = .fileHdr) : fdStep s = fdFileHdr s := by rw [fdStep, h]

theorem fdStep_of_blkHdr (h : s.fd.phase = .blkHdr) : fdStep s = fdBlkHdr s := by rw [fdStep, h]

theorem fdStep_of_blkCSize (h : s.fd.phase = .blkCSize) : fdStep s = fdBlkCSize s := by rw [fdStep, h]

theorem fdStep_of_params (h : s.fd.phase = .params) : fdStep s = fdParams s := by rw [fdStep, h]

theorem fdStep_of_payload (h : s.fd.phase = .payload) : fdStep s = fdPayload s := by rw [fdStep, h]

theorem fdStep_of_decode (h : s.fd.phase = .decode) : fdStep s = fdDecode s := by rw [fdStep, h]

theorem fdStep_of_crc (h : s.fd.phase = .crc) : fdStep s = fdCrc s := by rw [fdStep, h]

end Phases

/-! ## FILE_HDR and BLK_HDR (R300, R301) -/

theorem le16_eq_append (d : List Byte) (i : Nat) : le16 d i = d.getD (i + 1) 0 ++ d.getD i 0 := by
  apply BitVec.eq_of_toNat_eq
  rw [toNat_append_byte, le16, BitVec.toNat_ofNat]
  simp only [leNat_window_succ, List.take_zero, leNat, Nat.add_assoc, Nat.reduceAdd]
  omega

/-- What FILE_HDR records (R300), with MAGIC_OK as the claims say it. -/
theorem gotFileHdr_eq (h : List Byte) (f : Fd) :
    f.gotFileHdr h = { f with
      magic := le32 h 0, version := le32 h 4, ckKind := le16 h 8,
      magicOk := decide (h.take 4 = [0x47, 0x43, 0x44, 0x45]) } := by
  have hmagic : (h.take 4 == magicBytes) = decide (h.take 4 = [0x47, 0x43, 0x44, 0x45]) := by
    rw [Bool.eq_iff_iff, beq_iff_eq, decide_eq_true_iff]
    rfl
  rw [Fd.gotFileHdr, hmagic]

theorem exec_fdStep_of_fileHdr {s : State} (hphase : s.fd.phase = .fileHdr) :
    exec .fdStep s = phaseRead 10 .truncFileHdr s fun h f =>
      if 1 < (le16 h 8).toNat then fatal .badCkKind s (f.gotFileHdr h) 10
      else phaseOk s { f.gotFileHdr h with hdrDone := true, phase := .blkHdr } 10 := by
  rw [exec_fdStep_of_phase hphase fdStep_of_fileHdr, fdFileHdr, fdRespond_fdRead]
  congr 1
  funext h f
  split <;> rfl

theorem exec_fdStep_of_blkHdr {s : State} (hphase : s.fd.phase = .blkHdr) :
    exec .fdStep s =
      if s.fd.abortReq = true then answer { s with fd := s.fd.enterCancelled } .cancelled 0 []
      else if s.fd.eof = true ∧ s.fd.src = [] then answer { s with fd := { s.fd with phase := .done } } .done 0 []
      else phaseRead 8 .truncBlockHdr s fun h f =>
        if 5 < (le16 h 0).toNat then fatal .badType s (f.gotBlkHdr h) 8
        else if 3 < (le16 h 2).toNat then fatal .badCompression s (f.gotBlkHdr h) 8
        else phaseOk s { f.gotBlkHdr h with phase := if le16 h 2 ≠ 0#16 then .blkCSize else .params } 8 := by
  rw [exec_fdStep_of_phase hphase fdStep_of_blkHdr, fdBlkHdr]
  split
  next => rfl
  next =>
    split
    next => rfl
    next =>
      rw [fdRespond_fdRead]
      congr 1
      funext h f
      split
      next => rfl
      next => split <;> rfl

/-- Settles O51: the equations of the two header phases. -/
theorem fdHeaderPhases : Obligations.FdHeaderPhases := by
  refine ⟨encodedBare_of_decode fun imm din => by rw [decode, opcodeOf_cmd]; rfl, le16_eq_append,
    fun s hphase => ?_, fun s hphase => ?_⟩
  · rw [exec_fdStep_of_fileHdr hphase]
    simp only [gotFileHdr_eq]
  · exact exec_fdStep_of_blkHdr hphase

/-! ## BLK_CSIZE, PARAMS, PAYLOAD and CRC (R302 to R304, R307) -/

theorem exec_fdStep_of_blkCSize {s : State} (hphase : s.fd.phase = .blkCSize) :
    exec .fdStep s = phaseRead 4 .truncBlockHdr s fun c f =>
      phaseOk s { f with bcsize := le32 c 0, bcrc := crcUpdate f.bcrc c, phase := .params } 4 := by
  rw [exec_fdStep_of_phase hphase fdStep_of_blkCSize, fdBlkCSize, fdRespond_fdRead]
  rfl

theorem exec_fdStep_of_params {s : State} (hphase : s.fd.phase = .params) :
    exec .fdStep s = phaseRead s.fd.paramLen .truncParams s fun p f =>
      phaseOk s { f with bparam := BitVec.ofNat 48 (leNat p), bcrc := crcUpdate f.bcrc p, phase := .payload }
        s.fd.paramLen := by
  rw [exec_fdStep_of_phase hphase fdStep_of_params, fdParams, fdRespond_fdRead]
  rfl

theorem exec_fdStep_of_payload {s : State} (hphase : s.fd.phase = .payload) :
    exec .fdStep s = phaseRead s.fd.payLen .truncPayload s fun p f =>
      phaseOk s { f with pay := p, bcrc := crcUpdate f.bcrc p, phase := .decode } s.fd.payLen := by
  rw [exec_fdStep_of_phase hphase fdStep_of_payload, fdPayload, fdRespond_fdRead]
  rfl

theorem exec_fdStep_of_crc {s : State} (hphase : s.fd.phase = .crc) :
    exec .fdStep s = phaseRead 4 .truncCrc s fun c f =>
      phaseOk s { f.appendRecord (le32 c 0 == f.bcrc) (le32 c 0) f.bcrc with phase := .blkHdr } 4 := by
  rw [exec_fdStep_of_phase hphase fdStep_of_crc, fdCrc, fdRespond_fdRead]
  rfl

/-- Settles O52: the equations of the four body phases; a read leaves FD_BCRC and the block's bytes as they are. -/
theorem fdBodyPhases : Obligations.FdBodyPhases :=
  ⟨fun _ hphase => exec_fdStep_of_blkCSize hphase, fun _ hphase => exec_fdStep_of_params hphase,
    fun _ hphase => exec_fdStep_of_payload hphase, fun _ hphase => exec_fdStep_of_crc hphase⟩

/-! ## DECODE: compression dispatch (R305) -/

section Decode

variable {s t : State} {d : List Byte}

theorem decompressed_of_decodesTo (h : DecodesTo s d t) : s.decompressed = .ok d ∧ s.afterDecompress = t := by
  obtain ⟨hcomp, rfl, rfl⟩ | ⟨hcomp, hanswer, rfl⟩ | ⟨hcomp, rfl, rfl⟩ | ⟨hcomp, rfl, rfl⟩ := h
  · simp [State.decompressed, State.afterDecompress, hcomp]
  · simp [State.decompressed, State.afterDecompress, hcomp, hanswer]
  · simp [State.decompressed, State.afterDecompress, hcomp]
  · simp [State.decompressed, State.afterDecompress, hcomp]

theorem afterDecompress_of_ne {s : State} (h : s.fd.comp ≠ 1#16) : s.afterDecompress = s := if_neg h

theorem decodesTo_of_decompressed (h : s.decompressed = .ok d) : DecodesTo s d s.afterDecompress := by
  unfold State.decompressed at h
  split_ifs at h with h0 h1 h2 h3
  · cases h
    exact .inl ⟨h0, rfl, afterDecompress_of_ne (by rw [h0]; decide)⟩
  · cases hanswer : s.inflateAnswer s.fd.pay with
    | none => rw [hanswer] at h; exact absurd h nofun
    | some out =>
      rw [hanswer] at h
      cases h
      exact .inr (.inl ⟨h1, hanswer, if_pos h1⟩)
  · cases h
    exact .inr (.inr (.inl ⟨h2, rfl, afterDecompress_of_ne h1⟩))
  · cases h
    exact .inr (.inr (.inr ⟨h3, rfl, afterDecompress_of_ne h1⟩))

/-- The INFLATE port writes no unit. -/
theorem afterDecompress_fd (s : State) : s.afterDecompress.fd = s.fd := by
  unfold State.afterDecompress
  split <;> rfl

theorem afterDecompress_mpNlSkip (s : State) : s.afterDecompress.mpNlSkip = s.mpNlSkip := by
  unfold State.afterDecompress
  split <;> rfl

theorem fdDecode_of_too_long (h : DecodesTo s d t) (hlong : blockLimit < d.length) :
    fdDecode s = .refused .blockTooLong := by
  obtain ⟨hdec, -⟩ := decompressed_of_decodesTo h
  rw [fdDecode, hdec]
  exact if_pos hlong

/-- A block that fits goes on to content routing with FD.DEC set. -/
theorem fdDecode_of_fits (h : DecodesTo s d t) (hfits : ¬ blockLimit < d.length) :
    fdDecode s = fdRoute (t.withFd (t.fd.withDec d)) := by
  obtain ⟨hdec, rfl⟩ := decompressed_of_decodesTo h
  rw [fdDecode, hdec, afterDecompress_fd]
  exact if_neg hfits

theorem fd_eq_of_decodesTo (h : DecodesTo s d t) : t.fd = s.fd ∧ t.mpNlSkip = s.mpNlSkip := by
  obtain ⟨-, rfl⟩ := decompressed_of_decodesTo h
  exact ⟨afterDecompress_fd s, afterDecompress_mpNlSkip s⟩

end Decode

/-! ## DECODE: content routing (R306) -/

/-- A record appended, in the claims' words (R311). -/
theorem appendRecord_eq_withRecord (valid : Bool) (stored computed : BitVec 32) (f : Fd) :
    { f.appendRecord valid stored computed with phase := .blkHdr } =
      withRecord f (f.record valid stored computed) := rfl

/-- A record appended drops the block's bytes. -/
theorem withRecord_withRoute (f : Fd) (k : Route) (d r : List Byte) (x : BlockRecord) :
    withRecord ((f.withDec d).withRoute k r) x = withRecord f x := rfl

/-- The end of DECODE once the block has been decoded to `d` and routed as `r`. -/
theorem fdRespond_fdDecoded (u : State) (k : Route) (d r : List Byte) :
    fdRespond (fdDecoded (u.withFd ((u.fd.withDec d).withRoute k r))) = decoded u k d r := by
  rw [fdDecoded, apply_ite fdRespond, decoded]
  refine if_congr Iff.rfl rfl ?_
  rw [appendRecord_eq_withRecord, State.withFd_fd, withRecord_withRoute]
  rfl

section Route

variable {t : State} {d : List Byte}

/-- The state in which content routing meets a block that decoded to `d`. -/
abbrev withDecoded (t : State) (d : List Byte) : State := t.withFd (t.fd.withDec d)

theorem fdRoute_of_gcode (h : t.fd.btype = 1#16) : fdRoute (withDecoded t d) = fdRouteGcode (withDecoded t d) :=
  if_pos h

theorem fdRoute_of_thumbnail (h : t.fd.btype = 5#16) :
    fdRoute (withDecoded t d) = fdRouteThumbnail (withDecoded t d) :=
  (if_neg (by show t.fd.btype ≠ 1#16; rw [h]; decide)).trans (if_pos h)

theorem fdRoute_of_property (h1 : t.fd.btype ≠ 1#16) (h5 : t.fd.btype ≠ 5#16) :
    fdRoute (withDecoded t d) = fdRouteProperty (withDecoded t d) := (if_neg h1).trans (if_neg h5)

/-- The text of a Gcode block (R306). -/
theorem gcodeText_withDecoded (t : State) (d : List Byte) :
    (withDecoded t d).gcodeText = if t.fd.paramCode = 0#16 then d else mpDecode t.mpNlSkip d := rfl

theorem fdRouteGcode_of_bad_encoding (h : 2 < t.fd.paramCode.toNat) :
    fdRouteGcode (withDecoded t d) = fdFatal .badEncoding (withDecoded t d) 0 := if_pos h

theorem fdRouteGcode_of_too_long (h : ¬ 2 < t.fd.paramCode.toNat)
    (hlong : blockLimit < (withDecoded t d).gcodeText.length) :
    fdRouteGcode (withDecoded t d) = .refused .blockTooLong :=
  (if_neg h).trans (if_pos hlong)

theorem fdRespond_fdRouteGcode_of_text {text : List Byte} (h : ¬ 2 < t.fd.paramCode.toNat)
    (htext : (withDecoded t d).gcodeText = text) (hfits : ¬ blockLimit < text.length) :
    fdRespond (fdRouteGcode (withDecoded t d)) = decoded (delivered t (.text text)) .text d text := by
  subst htext
  rw [fdRouteGcode, if_neg (show ¬ 2 < (withDecoded t d).fd.paramCode.toNat from h), if_neg hfits]
  exact fdRespond_fdDecoded (delivered t (.text (withDecoded t d).gcodeText)) .text d _

theorem fdRouteThumbnail_of_unsupported (h : t.fd.paramCode = 1#16) :
    fdRouteThumbnail (withDecoded t d) = fdFatal .unsupportedFormat (withDecoded t d) 0 := if_pos h

theorem fdRouteThumbnail_of_bad_format (h : 2 < t.fd.paramCode.toNat) :
    fdRouteThumbnail (withDecoded t d) = fdFatal .badFormat (withDecoded t d) 0 := by
  have hne : t.fd.paramCode ≠ 1#16 := fun heq => by
    rw [heq] at h
    exact absurd h (by decide)
  exact (if_neg hne).trans (if_pos h)

theorem fdRespond_fdRouteThumbnail_of_supported (h : t.fd.paramCode = 0#16 ∨ t.fd.paramCode = 2#16) :
    fdRespond (fdRouteThumbnail (withDecoded t d)) =
      if t.imageAnswer t.fd.paramCode t.fd.paramWidth t.fd.paramHeight d = true then
        decoded (t.imageCalled t.fd.paramCode t.fd.paramWidth t.fd.paramHeight d) .image d d
      else fatal .ext (t.imageCalled t.fd.paramCode t.fd.paramWidth t.fd.paramHeight d) t.fd 0 := by
  have hcodes : t.fd.paramCode ≠ 1#16 ∧ ¬ 2 < t.fd.paramCode.toNat := by
    obtain h | h := h <;> rw [h] <;> decide
  obtain ⟨hne, hle⟩ := hcodes
  rw [fdRouteThumbnail, if_neg (show (withDecoded t d).fd.paramCode ≠ 1#16 from hne),
    if_neg (show ¬ 2 < (withDecoded t d).fd.paramCode.toNat from hle), apply_ite fdRespond]
  exact if_congr Iff.rfl
    (fdRespond_fdDecoded (t.imageCalled t.fd.paramCode t.fd.paramWidth t.fd.paramHeight d) .image d d) rfl

theorem fdRouteProperty_of_bad_encoding (h : t.fd.paramCode ≠ 0#16) :
    fdRouteProperty (withDecoded t d) = fdFatal .badEncoding (withDecoded t d) 0 := if_pos h

theorem fdRespond_fdRouteProperty_of_plain (h : t.fd.paramCode = 0#16) :
    fdRespond (fdRouteProperty (withDecoded t d)) = decoded (delivered t (.ini d)) .ini d d := by
  rw [fdRouteProperty, if_neg (show ¬ (withDecoded t d).fd.paramCode ≠ 0#16 from not_not.mpr h)]
  exact fdRespond_fdDecoded (delivered t (.ini d)) .ini d d

/-- A fatal error drops the decoded bytes: it is the one of the block as it was read. -/
theorem fdRespond_fdFatal_withDecoded (code : FatalCode) (t : State) (d : List Byte) :
    fdRespond (fdFatal code (withDecoded t d) 0) = fatal code t t.fd 0 := rfl

end Route

theorem exec_fdStep_of_decodesTo {s t : State} {d : List Byte} (hphase : s.fd.phase = .decode) (h : DecodesTo s d t)
    (hfits : ¬ blockLimit < d.length) : exec .fdStep s = fdRespond (fdRoute (withDecoded t d)) := by
  rw [exec_fdStep_of_phase hphase fdStep_of_decode, fdDecode_of_fits h hfits]

theorem fdStep_of_oversized {s : State} (h : Oversized s) : fdStep s = .refused .blockTooLong := by
  obtain ⟨hphase, d, t, hdec, hlong⟩ := h
  rw [fdStep_of_decode hphase]
  by_cases hfits : blockLimit < d.length
  · exact fdDecode_of_too_long hdec hfits
  · obtain hlong | ⟨hbtype, hcode, hlong⟩ := hlong
    · exact absurd hlong hfits
    · obtain ⟨hfd, hnl⟩ := fd_eq_of_decodesTo hdec
      rw [← hfd] at hbtype hcode
      rw [← hnl] at hlong
      have hcodes : t.fd.paramCode ≠ 0#16 ∧ ¬ 2 < t.fd.paramCode.toNat := by
        obtain h | h := hcode <;> rw [Fd.paramCode, h] <;> decide
      obtain ⟨hne, hle⟩ := hcodes
      rw [fdDecode_of_fits hdec hfits, fdRoute_of_gcode hbtype, fdRouteGcode_of_too_long hle]
      rw [gcodeText_withDecoded, if_neg hne]
      exact hlong

theorem exec_fdStep_of_inflate_error {s : State} (hphase : s.fd.phase = .decode) (hcomp : s.fd.comp = 1)
    (hanswer : s.inflateAnswer s.fd.pay = none) :
    exec .fdStep s = fatal .ext (s.inflateCalled s.fd.pay) s.fd 0 := by
  have herror : s.decompressed = .error .ext := by simp [State.decompressed, hcomp, hanswer]
  have hcalled : s.afterDecompress = s.inflateCalled s.fd.pay := if_pos hcomp
  rw [exec_fdStep_of_phase hphase fdStep_of_decode, fdDecode, herror, hcalled]
  exact fdRespond_fdFatal .ext _ 0

/-- A prepared answer is given first, and used up (log entries 2 and 3). -/
theorem oracle_answers (s : State) (b : List Byte) :
    s.inflateCalled b = { s with host := (s.inflateCalled b).host } ∧
    (s.inflateCalled b).host.inflateCalls = s.host.inflateCalls ++ [b] ∧
    (s.inflateCalled b).host.events = s.host.events ∧
    (∀ a rest, s.host.inflateAnswers = a :: rest →
      s.inflateAnswer b = a ∧ (s.inflateCalled b).host.inflateAnswers = rest) ∧
    ∀ (f w h : BitVec 16) (a : Bool) (rest : List Bool), s.host.imageAnswers = a :: rest →
      s.imageAnswer f w h b = a ∧ (s.imageCalled f w h b).host.imageAnswers = rest := by
  refine ⟨rfl, rfl, rfl, fun a rest h => ?_, fun f w h a rest hanswers => ?_⟩
  · rw [State.inflateAnswer, State.inflateCalled_host_inflateAnswers, h]
    exact ⟨rfl, rfl⟩
  · rw [State.imageAnswer, State.imageCalled_host_imageAnswers, hanswers]
    exact ⟨rfl, rfl⟩

/-- Settles O53: compression dispatch, then content routing by type and parameter code. -/
theorem fdDecodePhase : Obligations.FdDecodePhase := by
  refine ⟨oracle_answers, fun _ => exec_fdStep_of_inflate_error, fun s h => ?_, fun s t d hphase hdec hle => ?_⟩
  · rw [exec, execFdStep, fdStep_of_oversized h]
    rfl
  · obtain ⟨hfd, hnl⟩ := fd_eq_of_decodesTo hdec
    have hfits : ¬ blockLimit < d.length := Nat.not_lt.mpr hle
    rw [exec_fdStep_of_decodesTo hphase hdec hfits, ← hfd, ← hnl]
    refine ⟨fun hb hcode => ?_, fun hb hcode => ?_, fun hb hcode htext => ?_, fun hb hcode => ?_, fun hb hcode => ?_,
      fun hb hcode => ⟨_, rfl, rfl, ?_⟩, fun hb1 hb5 hcode => ?_, fun hb1 hb5 hcode => ?_⟩
    · rw [fdRoute_of_gcode hb, fdRouteGcode_of_bad_encoding hcode, fdRespond_fdFatal_withDecoded]
    · rw [fdRoute_of_gcode hb]
      refine fdRespond_fdRouteGcode_of_text ?_ (if_pos hcode) hfits
      rw [Fd.paramCode, hcode]
      decide
    · have hcodes : t.fd.paramCode ≠ 0#16 ∧ ¬ 2 < t.fd.paramCode.toNat := by
        obtain h | h := hcode <;> rw [Fd.paramCode, h] <;> decide
      obtain ⟨hne, hle⟩ := hcodes
      rw [fdRoute_of_gcode hb]
      exact fdRespond_fdRouteGcode_of_text hle (if_neg hne) (Nat.not_lt.mpr htext)
    · rw [fdRoute_of_thumbnail hb, fdRouteThumbnail_of_unsupported hcode, fdRespond_fdFatal_withDecoded]
    · rw [fdRoute_of_thumbnail hb, fdRouteThumbnail_of_bad_format hcode, fdRespond_fdFatal_withDecoded]
    · rw [fdRoute_of_thumbnail hb]
      exact fdRespond_fdRouteThumbnail_of_supported hcode
    · rw [fdRoute_of_property hb1 hb5, fdRouteProperty_of_bad_encoding hcode, fdRespond_fdFatal_withDecoded]
    · rw [fdRoute_of_property hb1 hb5]
      exact fdRespond_fdRouteProperty_of_plain hcode

/-! ## What a step can do, said once -/

/-- A state that differs in FD and in what the ports have been given and answered, alone: deliveries are only added. -/
structure OnlyFdAndPorts (s t : State) : Prop where
  crcAcc : t.crcAcc = s.crcAcc
  hsd : t.hsd = s.hsd
  hse : t.hse = s.hse
  mpu : t.mpu = s.mpu
  mpNlSkip : t.mpNlSkip = s.mpNlSkip
  pending : t.host.pending = s.host.pending
  responses : t.host.responses = s.host.responses
  events : s.host.events <+: t.host.events

theorem onlyFdAndPorts_refl (s : State) : OnlyFdAndPorts s s := ⟨rfl, rfl, rfl, rfl, rfl, rfl, rfl, List.prefix_rfl⟩

theorem onlyFdAndPorts_trans {s t u : State} (h : OnlyFdAndPorts s t) (h' : OnlyFdAndPorts t u) : OnlyFdAndPorts s u :=
  ⟨h'.crcAcc.trans h.crcAcc, h'.hsd.trans h.hsd, h'.hse.trans h.hse, h'.mpu.trans h.mpu, h'.mpNlSkip.trans h.mpNlSkip,
    h'.pending.trans h.pending, h'.responses.trans h.responses, h.events.trans h'.events⟩

section OnlyFdAndPorts

variable {s t : State} (h : OnlyFdAndPorts s t)

include h

theorem onlyFdAndPorts_withFd (f : Fd) : OnlyFdAndPorts s (t.withFd f) :=
  onlyFdAndPorts_trans h ⟨rfl, rfl, rfl, rfl, rfl, rfl, rfl, List.prefix_rfl⟩

theorem onlyFdAndPorts_deliver (e : PortEvent) : OnlyFdAndPorts s (t.deliver e) :=
  onlyFdAndPorts_trans h ⟨rfl, rfl, rfl, rfl, rfl, rfl, rfl, List.prefix_append _ _⟩

theorem onlyFdAndPorts_blockImageCalled : OnlyFdAndPorts s t.blockImageCalled :=
  onlyFdAndPorts_trans h ⟨rfl, rfl, rfl, rfl, rfl, rfl, rfl, List.prefix_append _ _⟩

end OnlyFdAndPorts

theorem onlyFdAndPorts_afterDecompress (s : State) : OnlyFdAndPorts s s.afterDecompress := by
  unfold State.afterDecompress
  split
  · exact ⟨rfl, rfl, rfl, rfl, rfl, rfl, rfl, List.prefix_rfl⟩
  · exact onlyFdAndPorts_refl s

/-- Everything that a step can leave: one constructor for each way a phase ends (R299 to R307). -/
inductive StepOutcome (s : State) : FdDone → Prop
  | idle : s.fd.phase = .idle → StepOutcome s ⟨s.setFdMisuse, .misuse, 0⟩
  | ended {st : Status} : Terminal s.fd.phase st → StepOutcome s ⟨s, st, 0⟩
  | waiting : StepOutcome s ⟨s, .wait, 0⟩
  | cancelled : s.fd.phase = .blkHdr → StepOutcome s ⟨s.withFd s.fd.enterCancelled, .cancelled, 0⟩
  | done : s.fd.phase = .blkHdr → s.fd.eof = true → s.fd.src = [] →
      StepOutcome s ⟨s.withFd { s.fd with phase := .done }, .done, 0⟩
  | fatal {t : State} {f : Fd} {code : FatalCode} {n : Nat} : OnlyFdAndPorts s t → code ≠ .none → n ≤ s.fd.src.length →
      f.src = s.fd.src.drop n → f.cursor = s.fd.cursor + BitVec.ofNat 64 n →
        StepOutcome s ⟨t.withFd (f.raiseFatal code), .fatal, n⟩
  | fileHdr {h : List Byte} : s.fd.phase = .fileHdr → 10 ≤ s.fd.src.length → (le16 h 8).toNat ≤ 1 →
      StepOutcome s
        ⟨s.withFd { (s.fd.consumed 10).gotFileHdr h with hdrDone := true, phase := .blkHdr }, .ok, 10⟩
  | blkHdr {h : List Byte} : s.fd.phase = .blkHdr → 8 ≤ s.fd.src.length → (le16 h 0).toNat ≤ 5 →
      (le16 h 2).toNat ≤ 3 →
        StepOutcome s ⟨s.withFd { (s.fd.consumed 8).gotBlkHdr h with
          phase := if le16 h 2 ≠ 0#16 then .blkCSize else .params }, .ok, 8⟩
  | blkCSize {size crc : BitVec 32} : s.fd.phase = .blkCSize → 4 ≤ s.fd.src.length →
      StepOutcome s ⟨s.withFd { s.fd.consumed 4 with bcsize := size, bcrc := crc, phase := .params }, .ok, 4⟩
  | params {param : BitVec 48} {crc : BitVec 32} : s.fd.phase = .params → s.fd.paramLen ≤ s.fd.src.length →
      StepOutcome s ⟨s.withFd { s.fd.consumed s.fd.paramLen with bparam := param, bcrc := crc, phase := .payload },
        .ok, s.fd.paramLen⟩
  | payload {pay : List Byte} {crc : BitVec 32} : s.fd.phase = .payload → s.fd.payLen ≤ s.fd.src.length →
      StepOutcome s ⟨s.withFd { s.fd.consumed s.fd.payLen with pay := pay, bcrc := crc, phase := .decode },
        .ok, s.fd.payLen⟩
  | routed {t : State} {k : Route} {d r : List Byte} : s.fd.phase = .decode → OnlyFdAndPorts s t →
      d.length ≤ blockLimit → r.length ≤ blockLimit → s.fd.ckKind = 1#16 →
        StepOutcome s ⟨t.withFd { (s.fd.withDec d).withRoute k r with phase := .crc }, .ok, 0⟩
  | recorded {t : State} {k : Route} {d r : List Byte} : s.fd.phase = .decode → OnlyFdAndPorts s t →
      r.length ≤ blockLimit →
        StepOutcome s ⟨t.withFd { ((s.fd.withDec d).withRoute k r).appendRecord true 0#32 0#32 with phase := .blkHdr },
          .ok, 0⟩
  | checked {valid : Bool} {stored computed : BitVec 32} : s.fd.phase = .crc → 4 ≤ s.fd.src.length →
      StepOutcome s ⟨s.withFd { (s.fd.consumed 4).appendRecord valid stored computed with phase := .blkHdr }, .ok, 4⟩

/-- A step that answers `a` is refused, or what it leaves has the property `P`. -/
def Leaves (P : FdDone → Prop) (a : FdAnswer) : Prop := ∀ d, a = .done d → P d

theorem leaves_fdReturn {P : FdDone → Prop} {s : State} {st : Status} {n : Nat} (h : P ⟨s, st, n⟩) :
    Leaves P (fdReturn s st n) := by
  rintro d ⟨⟩
  exact h

theorem leaves_refused {P : FdDone → Prop} {r : Refusal} : Leaves P (.refused r) := by
  rintro _ ⟨⟩

section Outcome

variable {s : State}

/-- The exact-N read leaves what the phase leaves, or a fatal error, or the state as it was. -/
theorem outcome_fdRead {n : Nat} {code : FatalCode} {next : List Byte → State → FdAnswer} (hcode : code ≠ .none)
    (hnext : n ≤ s.fd.src.length →
      Leaves (StepOutcome s) (next (s.fd.front n) (s.withFd (s.fd.consumed n)))) :
    Leaves (StepOutcome s) (fdRead n code s next) := by
  obtain ⟨hn, h⟩ | ⟨-, -, h⟩ | ⟨-, -, h⟩ := fdRead_cases n code s next <;> rw [h]
  · exact hnext hn
  · exact leaves_fdReturn (.fatal (onlyFdAndPorts_refl s) hcode (Nat.zero_le _) rfl (BitVec.add_zero _).symm)
  · exact leaves_fdReturn .waiting

/-- A fatal error after a read. -/
theorem outcome_fatal_read {n : Nat} (hn : n ≤ s.fd.src.length) {code : FatalCode} (hcode : code ≠ .none) {f : Fd}
    (hsrc : f.src = s.fd.src.drop n) (hcursor : f.cursor = s.fd.cursor + BitVec.ofNat 64 n) :
    Leaves (StepOutcome s) (fdFatal code ((s.withFd (s.fd.consumed n)).withFd f) n) :=
  leaves_fdReturn (.fatal (onlyFdAndPorts_withFd (onlyFdAndPorts_refl s) _) hcode hn hsrc hcursor)

theorem outcome_fdFileHdr (hphase : s.fd.phase = .fileHdr) : Leaves (StepOutcome s) (fdFileHdr s) := by
  refine outcome_fdRead nofun fun hn => ?_
  dsimp only
  split
  next => exact outcome_fatal_read hn (by decide) (by rfl) (by rfl)
  next hkind => exact leaves_fdReturn (.fileHdr hphase hn (Nat.le_of_not_lt hkind))

theorem outcome_fdBlkHdr (hphase : s.fd.phase = .blkHdr) : Leaves (StepOutcome s) (fdBlkHdr s) := by
  unfold fdBlkHdr
  split
  next => exact leaves_fdReturn (.cancelled hphase)
  next =>
    split
    next hend =>
      obtain ⟨heof, hsrc⟩ := hend
      exact leaves_fdReturn (.done hphase heof hsrc)
    next =>
      refine outcome_fdRead nofun fun hn => ?_
      dsimp only
      split
      next => exact outcome_fatal_read hn (by decide) (by rfl) (by rfl)
      next htype =>
        split
        next => exact outcome_fatal_read hn (by decide) (by rfl) (by rfl)
        next hcomp =>
          exact leaves_fdReturn (.blkHdr hphase hn (Nat.le_of_not_lt htype) (Nat.le_of_not_lt hcomp))

/-- The end of DECODE once the block has been decoded and routed. -/
theorem outcome_fdDecoded (hphase : s.fd.phase = .decode) {t : State} {k : Route} {d r : List Byte}
    (h : OnlyFdAndPorts s t) (hfd : t.fd = (s.fd.withDec d).withRoute k r) (hd : d.length ≤ blockLimit)
    (hr : r.length ≤ blockLimit) : Leaves (StepOutcome s) (fdDecoded t) := by
  unfold fdDecoded
  rw [hfd]
  split
  next hkind => exact leaves_fdReturn (.routed hphase h hd hr hkind)
  next => exact leaves_fdReturn (.recorded hphase h hr)

/-- A fatal error in DECODE, whatever the block has been decoded to. -/
theorem outcome_fatal_decode {t : State} (h : OnlyFdAndPorts s t) {code : FatalCode} (hcode : code ≠ .none)
    (hsrc : t.fd.src = s.fd.src) (hcursor : t.fd.cursor = s.fd.cursor) :
    Leaves (StepOutcome s) (fdFatal code t 0) :=
  leaves_fdReturn (.fatal h hcode (Nat.zero_le _) hsrc (hcursor.trans (BitVec.add_zero _).symm))

theorem outcome_fdRoute (hphase : s.fd.phase = .decode) {t : State} {d : List Byte} (h : OnlyFdAndPorts s t)
    (hfd : t.fd = s.fd.withDec d) (hd : d.length ≤ blockLimit) : Leaves (StepOutcome s) (fdRoute t) := by
  have hfatal {u : State} {code : FatalCode} (hu : OnlyFdAndPorts s u) (hufd : u.fd = s.fd.withDec d)
      (hcode : code ≠ .none) : Leaves (StepOutcome s) (fdFatal code u 0) :=
    outcome_fatal_decode hu hcode (by rw [hufd]; rfl) (by rw [hufd]; rfl)
  unfold fdRoute
  split
  next =>
    unfold fdRouteGcode
    split
    next => exact hfatal h hfd nofun
    next =>
      split
      next => exact leaves_refused
      next htext =>
        refine outcome_fdDecoded hphase (k := .text) (onlyFdAndPorts_deliver (onlyFdAndPorts_withFd h _) _) ?_ hd
          (Nat.le_of_not_lt htext)
        rw [State.deliver_fd, State.withFd_fd, hfd]
  next =>
    split
    next =>
      have hcalled := onlyFdAndPorts_blockImageCalled h
      unfold fdRouteThumbnail
      split
      next => exact hfatal h hfd nofun
      next =>
        split
        next => exact hfatal h hfd nofun
        next =>
          split
          next =>
            refine outcome_fdDecoded hphase (onlyFdAndPorts_withFd hcalled _) (k := .image) (r := d) ?_ hd hd
            rw [State.withFd_fd, hfd]
            rfl
          next => exact hfatal hcalled hfd nofun
    next =>
      unfold fdRouteProperty
      split
      next => exact hfatal h hfd nofun
      next =>
        refine outcome_fdDecoded hphase (onlyFdAndPorts_deliver (onlyFdAndPorts_withFd h _) _) (k := .ini) (r := d) ?_
          hd hd
        rw [State.deliver_fd, State.withFd_fd, hfd]
        rfl

/-- A decompression error has a code. -/
theorem code_ne_none_of_decompressed {code : FatalCode} (h : s.decompressed = .error code) : code ≠ .none := by
  unfold State.decompressed at h
  split_ifs at h
  · cases hanswer : s.inflateAnswer s.fd.pay <;> rw [hanswer] at h <;> cases h
    exact nofun
  · cases h
    exact nofun

theorem outcome_fdDecode (hphase : s.fd.phase = .decode) : Leaves (StepOutcome s) (fdDecode s) := by
  have hframe := onlyFdAndPorts_afterDecompress s
  have hfd := afterDecompress_fd s
  unfold fdDecode
  cases hdec : s.decompressed with
  | error code =>
    exact outcome_fatal_decode hframe (code_ne_none_of_decompressed hdec) (by rw [hfd]) (by rw [hfd])
  | ok d =>
    dsimp only
    split
    next => exact leaves_refused
    next hfits =>
      exact outcome_fdRoute hphase (onlyFdAndPorts_withFd hframe _) rfl (Nat.le_of_not_lt hfits)

theorem fdStep_outcome {d : FdDone} (h : fdStep s = .done d) : StepOutcome s d := by
  revert d
  show Leaves (StepOutcome s) (fdStep s)
  have hended {st : Status} (hterm : Terminal s.fd.phase st) : Leaves (StepOutcome s) (fdReturn s st 0) :=
    leaves_fdReturn (.ended hterm)
  unfold fdStep
  cases hphase : s.fd.phase with
  | idle => exact leaves_fdReturn (.idle hphase)
  | fileHdr => exact outcome_fdFileHdr hphase
  | blkHdr => exact outcome_fdBlkHdr hphase
  | blkCSize => exact outcome_fdRead nofun fun hn => leaves_fdReturn (.blkCSize hphase hn)
  | params => exact outcome_fdRead nofun fun hn => leaves_fdReturn (.params hphase hn)
  | payload => exact outcome_fdRead nofun fun hn => leaves_fdReturn (.payload hphase hn)
  | decode => exact outcome_fdDecode hphase
  | crc => exact outcome_fdRead nofun fun hn => leaves_fdReturn (.checked hphase hn)
  | done => exact hended (.inl ⟨hphase, rfl⟩)
  | error => exact hended (.inr (.inl ⟨hphase, rfl⟩))
  | cancelled => exact hended (.inr (.inr ⟨hphase, rfl⟩))

end Outcome

/-! ## FD_RUN (R312) -/

/-- An OK step consumes bytes, but in PAYLOAD it may, and in DECODE it does, consume none: the steps then left until the
block's CRC or the next block is read. -/
def stepsToRead : Phase → Nat
  | .payload => 2
  | .decode => 1
  | _ => 0

/-- What every OK step counts down (R312): of three OK steps in a row at least one consumes a byte. -/
def stepMeasure (f : Fd) : Nat := 3 * f.src.length + stepsToRead f.phase

theorem stepsToRead_le (p : Phase) : stepsToRead p ≤ 2 := by cases p <;> decide

theorem paramLen_pos (f : Fd) : 0 < f.paramLen := by
  unfold Fd.paramLen
  split <;> decide

/-- A step that consumes bytes, or moves on within the block without any, counts down. -/
theorem stepMeasure_lt_of_drop {f g : Fd} {n : Nat} (hn : n ≤ f.src.length) (hsrc : g.src = f.src.drop n)
    (h : 0 < n ∨ stepsToRead g.phase < stepsToRead f.phase) : stepMeasure g < stepMeasure f := by
  have := stepsToRead_le g.phase
  rw [stepMeasure, stepMeasure, hsrc, List.length_drop]
  omega

theorem stepsToRead_lt {p q : Phase} {m : Nat} (h : p = q) (hlt : m < stepsToRead q) : m < stepsToRead p := h ▸ hlt

theorem stepMeasure_lt_of_ok {s t : State} {n : Nat} (h : fdStep s = .done ⟨t, .ok, n⟩) :
    stepMeasure t.fd < stepMeasure s.fd := by
  cases fdStep_outcome h with
  | ended hterm => exact absurd rfl (not_ok_of_terminal hterm)
  | fileHdr _ hn _ => exact stepMeasure_lt_of_drop hn rfl (.inl (by decide))
  | blkHdr _ hn _ _ => exact stepMeasure_lt_of_drop hn rfl (.inl (by decide))
  | blkCSize _ hn => exact stepMeasure_lt_of_drop hn rfl (.inl (by decide))
  | params _ hn => exact stepMeasure_lt_of_drop hn rfl (.inl (paramLen_pos s.fd))
  | payload hphase hn => exact stepMeasure_lt_of_drop hn rfl (.inr (stepsToRead_lt hphase Nat.one_lt_two))
  | routed hphase => exact stepMeasure_lt_of_drop (Nat.zero_le _) rfl (.inr (stepsToRead_lt hphase Nat.zero_lt_one))
  | recorded hphase => exact stepMeasure_lt_of_drop (Nat.zero_le _) rfl (.inr (stepsToRead_lt hphase Nat.zero_lt_one))
  | checked _ hn => exact stepMeasure_lt_of_drop hn rfl (.inl (by decide))

theorem runFuel_gt_stepMeasure (f : Fd) : stepMeasure f < f.runFuel := by
  have := stepsToRead_le f.phase
  rw [stepMeasure, Fd.runFuel]
  omega

theorem fdRunLoop_of_not_ok {s t : State} {st : Status} {k : Nat} (fuel n : Nat)
    (hstep : fdStep s = .done ⟨t, st, k⟩) (hst : st ≠ .ok) : fdRunLoop (fuel + 1) s n = fdReturn t st (n + k) := by
  rw [fdRunLoop, hstep]
  exact if_neg hst

theorem fdRunLoop_of_ok {s t : State} {k : Nat} (fuel n : Nat) (hstep : fdStep s = .done ⟨t, .ok, k⟩) :
    fdRunLoop (fuel + 1) s n = fdRunLoop fuel t (n + k) := by
  rw [fdRunLoop, hstep]
  exact if_pos rfl

theorem fdRunLoop_of_refused {s : State} {r : Refusal} (fuel n : Nat) (hstep : fdStep s = .refused r) :
    fdRunLoop (fuel + 1) s n = .refused r := by
  rw [fdRunLoop, hstep]

/-- With steps enough the loop ends where the run ends. -/
theorem fdRunLoop_of_runsTo {s t : State} {st : Status} {k fuel : Nat} (n : Nat) (h : RunsTo s t st k)
    (hfuel : stepMeasure s.fd < fuel) : fdRunLoop fuel s n = fdReturn t st (n + k) := by
  induction h generalizing fuel n with
  | stop hstep hst =>
    obtain ⟨fuel, rfl⟩ := Nat.exists_eq_succ_of_ne_zero (Nat.ne_zero_of_lt hfuel)
    exact fdRunLoop_of_not_ok fuel n hstep hst
  | more hstep _ ih =>
    obtain ⟨fuel, rfl⟩ := Nat.exists_eq_succ_of_ne_zero (Nat.ne_zero_of_lt hfuel)
    have := stepMeasure_lt_of_ok hstep
    rw [fdRunLoop_of_ok fuel n hstep, ih _ (by omega), Nat.add_assoc]

theorem fdRunLoop_of_okSteps_refused {s t : State} {r : Refusal} {fuel : Nat} (n : Nat) (h : OkSteps s t)
    (hrefused : fdStep t = .refused r) (hfuel : stepMeasure s.fd < fuel) : fdRunLoop fuel s n = .refused r := by
  induction h generalizing fuel n with
  | none =>
    obtain ⟨fuel, rfl⟩ := Nat.exists_eq_succ_of_ne_zero (Nat.ne_zero_of_lt hfuel)
    exact fdRunLoop_of_refused fuel n hrefused
  | more hstep _ ih =>
    obtain ⟨fuel, rfl⟩ := Nat.exists_eq_succ_of_ne_zero (Nat.ne_zero_of_lt hfuel)
    have := stepMeasure_lt_of_ok hstep
    rw [fdRunLoop_of_ok fuel n hstep, ih _ hrefused (by omega)]

theorem not_ok_of_runsTo {s t : State} {st : Status} {n : Nat} (h : RunsTo s t st n) : st ≠ .ok := by
  induction h with
  | stop _ hst => exact hst
  | more _ _ ih => exact ih

theorem exec_fdRun_of_runsTo {s t : State} {st : Status} {n : Nat} (h : RunsTo s t st n) :
    exec .fdRun s = answer t st n [] := by
  rw [exec, execFdRun, fdRun, fdRunLoop_of_runsTo 0 h (runFuel_gt_stepMeasure s.fd), Nat.zero_add]
  rfl

theorem exec_fdRun_of_refused {s t : State} {r : Refusal} (h : OkSteps s t) (hrefused : fdStep t = .refused r) :
    exec .fdRun s = .refused r := by
  rw [exec, execFdRun, fdRun, fdRunLoop_of_okSteps_refused 0 h hrefused (runFuel_gt_stepMeasure s.fd)]
  rfl

/-- Every run ends, or meets a refused step. -/
theorem runsTo_or_refused (s : State) :
    (∃ t st n, RunsTo s t st n) ∨ ∃ t r, OkSteps s t ∧ fdStep t = .refused r := by
  induction hm : stepMeasure s.fd using Nat.strong_induction_on generalizing s with
  | _ m ih =>
    cases hstep : fdStep s with
    | refused r => exact .inr ⟨s, r, .none, hstep⟩
    | done d =>
      obtain ⟨t, st, k⟩ := d
      by_cases hst : st = .ok
      · subst hst
        have hlt := stepMeasure_lt_of_ok hstep
        obtain ⟨u, st, n, hrun⟩ | ⟨u, r, hsteps, hrefused⟩ := ih _ (hm ▸ hlt) t rfl
        · exact .inl ⟨u, st, k + n, .more hstep hrun⟩
        · exact .inr ⟨u, r, .more hstep hsteps, hrefused⟩
      · exact .inl ⟨t, st, k, .stop hstep hst⟩

theorem exec_of_idle {s : State} (h : s.fd.phase = .idle) :
    exec .fdStep s = answer { s with fd := { s.fd with misuse := true } } .misuse 0 [] ∧
      exec .fdRun s = answer { s with fd := { s.fd with misuse := true } } .misuse 0 [] := by
  have hstep := fdStep_of_idle h
  exact ⟨by rw [exec, execFdStep, hstep]; rfl, exec_fdRun_of_runsTo (.stop hstep nofun)⟩

/-- Settles O55: the loop has steps enough for every run, so it ends where the run does. -/
theorem fdRunRule : Obligations.FdRunRule :=
  ⟨encodedBare_of_decode fun imm din => by rw [decode, opcodeOf_cmd]; rfl,
    fun _ _ _ _ h => ⟨exec_fdRun_of_runsTo h, not_ok_of_runsTo h⟩, runsTo_or_refused,
    fun _ _ _ h hrefused => exec_fdRun_of_refused h hrefused, fun _ h => exec_of_idle h⟩

end Sys2Proof.Proofs

/-! PROOFS of the statements about every command (spec/20_memory.md R82, spec/40_sys.md R130, spec/92_eei_decisions.md
D51 and D60). Said once for each unit: a command of the unit is a function of the unit that gives the unit it leaves
and one response. The dispatcher's steps are followed through their phases. -/

namespace Sys2Proof.Proofs

open Sys2Proof.Machine Sys2Proof.Claims

/-! ## A response added -/

/-- The state with a response appended. -/
def responded (s : State) (r : Response) : State := s.reply r.status r.count r.dout

/-- What R95 and R97 say of the response to a well-formed command. -/
structure Polite (r : Response) : Prop where
  not_illegal : r.status ≠ .illegal
  misuse_empty : r.status = .misuse → r.count = 0#32 ∧ r.dout = []

theorem polite_of_status {st : Status} (n : BitVec 32) (d : List Byte) (hillegal : st ≠ .illegal)
    (hmisuse : st ≠ .misuse) : Polite ⟨st, n, d⟩ :=
  ⟨hillegal, fun h => absurd h hmisuse⟩

theorem polite_misuse : Polite ⟨.misuse, 0, []⟩ := ⟨by decide, fun _ => ⟨rfl, rfl⟩⟩

theorem polite_ok (n : BitVec 32) (d : List Byte) : Polite ⟨.ok, n, d⟩ := polite_of_status n d (by decide) (by decide)

theorem polite_full : Polite ⟨.full, 0, []⟩ := polite_of_status 0 [] (by decide) (by decide)

theorem polite_range : Polite ⟨.range, 0, []⟩ := polite_of_status 0 [] (by decide) (by decide)

theorem polite_done_or_more (b : Bool) : Polite ⟨if b then .done else .more, 0, []⟩ := by
  cases b <;> exact polite_of_status 0 [] (by decide) (by decide)

theorem polite_more_or_empty {st : Status} (h : st = .more ∨ st = .empty) (n : BitVec 32) (d : List Byte) :
    Polite ⟨st, n, d⟩ := by
  obtain rfl | rfl := h <;> exact polite_of_status n d (by decide) (by decide)

/-! ## The units but MPU and FD -/

/-- A command that reads and writes its unit alone: the unit before it says what unit it leaves and its response. -/
def AnswersFrom {α : Type} (get : State → α) (put : State → α → State) (i : Instr) : Prop :=
  ∀ a, ∃ b r, Polite r ∧ ∀ s, get s = a → exec i s = .next (responded (put s b) r)

theorem crc_answersFrom {i : Instr} (h : unitOf i = .crc) :
    AnswersFrom State.crcAcc (fun s a => { s with crcAcc := a }) i := by
  intro a
  cases i with
  | crcClear => exact ⟨0#32, _, polite_ok 0 [], fun _ _ => rfl⟩
  | crcLoad v => exact ⟨v, _, polite_ok 0 [], fun _ _ => rfl⟩
  | crcByte b => exact ⟨crcUpdate a [b], _, polite_ok 1 [], by rintro s rfl; rfl⟩
  | crcSpan din => exact ⟨crcUpdate a din, _, polite_ok _ [], by rintro s rfl; rfl⟩
  | crcRead => exact ⟨a, _, polite_ok 4 (leBytes 4 a.toNat), by rintro s rfl; rfl⟩
  | _ => cases h

/-- The loop of HSD_POLL ends as MORE or EMPTY. -/
theorem hsdPollLoop_status (fuel room : Nat) (u : Hsd) :
    (hsdPollLoop fuel room u).status = .more ∨ (hsdPollLoop fuel room u).status = .empty := by
  induction fuel generalizing room u with
  | zero => exact .inr rfl
  | succ fuel ih =>
    unfold hsdPollLoop
    split_ifs
    exacts [.inl rfl, ih _ _, .inr rfl, .inl rfl, ih _ _, ih _ _]

theorem hsePollLoop_status (fuel room : Nat) (u : Hse) :
    (hsePollLoop fuel room u).status = .more ∨ (hsePollLoop fuel room u).status = .empty := by
  induction fuel generalizing room u with
  | zero => exact .inr rfl
  | succ fuel ih =>
    unfold hsePollLoop
    split_ifs
    exacts [.inl rfl, ih _ _, ih _ _, .inl rfl, ih _ _, .inr rfl]

theorem hsd_answersFrom {i : Instr} (h : unitOf i = .hsd) :
    AnswersFrom State.hsd (fun s u => { s with hsd := u }) i := by
  intro u
  have hmisuse (hdo : ∀ s, s.hsd = u → exec i s = .next s.raiseHsdMisuse) :
      ∃ v r, Polite r ∧ ∀ s, s.hsd = u → exec i s = .next (responded { s with hsd := v } r) :=
    ⟨{ u with misuse := true }, _, polite_misuse, by rintro s rfl; exact hdo s rfl⟩
  cases i with
  | hsdCfg w l inCap outCap =>
    by_cases hlegal : cfgLegal w l inCap outCap = true
    · exact ⟨{ u with cfgd := true, w := w, l := l, inCap := inCap, outCap := outCap }.streamReset, _, polite_ok 0 [],
        by rintro s rfl; exact if_pos hlegal⟩
    · exact ⟨Hsd.cleared, _, polite_range, fun _ _ => if_neg hlegal⟩
  | hsdSink din =>
    by_cases hclosed : u.cfgd = false ∨ u.finishing = true
    · exact hmisuse (by rintro s rfl; exact if_pos hclosed)
    · by_cases hfull : sinkRoom u.inCap u.inq = 0
      · exact ⟨u, _, polite_full, by rintro s rfl; exact (if_neg hclosed).trans (if_pos hfull)⟩
      · exact ⟨{ u with inq := u.inq ++ sinkTaken u.inCap u.inq din }, _,
          polite_ok (BitVec.ofNat 32 (sinkTaken u.inCap u.inq din).length) [],
          by rintro s rfl; exact (if_neg hclosed).trans (if_neg hfull)⟩
  | hsdPoll =>
    by_cases hcfgd : u.cfgd = false
    · exact hmisuse (by rintro s rfl; exact if_pos hcfgd)
    · exact ⟨u.poll.unit, ⟨u.poll.status, BitVec.ofNat 32 u.poll.dout.length, u.poll.dout⟩,
        polite_more_or_empty (hsdPollLoop_status u.pollFuel u.outCap.toNat u) _ _,
        by rintro s rfl; exact if_neg hcfgd⟩
  | hsdFinish =>
    by_cases hcfgd : u.cfgd = false
    · exact hmisuse (by rintro s rfl; exact if_pos hcfgd)
    · exact ⟨{ u with finishing := true }, _, polite_done_or_more { u with finishing := true }.done,
        by rintro s rfl; exact if_neg hcfgd⟩
  | hsdReset =>
    by_cases hcfgd : u.cfgd = false
    · exact hmisuse (by rintro s rfl; exact if_pos hcfgd)
    · exact ⟨u.streamReset, _, polite_ok 0 [], by rintro s rfl; exact if_neg hcfgd⟩
  | _ => cases h

theorem hse_answersFrom {i : Instr} (h : unitOf i = .hse) :
    AnswersFrom State.hse (fun s u => { s with hse := u }) i := by
  intro u
  have hmisuse (hdo : ∀ s, s.hse = u → exec i s = .next s.raiseHseMisuse) :
      ∃ v r, Polite r ∧ ∀ s, s.hse = u → exec i s = .next (responded { s with hse := v } r) :=
    ⟨{ u with misuse := true }, _, polite_misuse, by rintro s rfl; exact hdo s rfl⟩
  cases i with
  | hseCfg w l inCap outCap =>
    by_cases hlegal : cfgLegal w l inCap outCap = true
    · exact ⟨{ u with cfgd := true, w := w, l := l, inCap := inCap, outCap := outCap }.encoderReset, _, polite_ok 0 [],
        by rintro s rfl; exact if_pos hlegal⟩
    · exact ⟨Hse.cleared, _, polite_range, fun _ _ => if_neg hlegal⟩
  | hseSink din =>
    by_cases hclosed : u.cfgd = false ∨ u.finishing = true
    · exact hmisuse (by rintro s rfl; exact if_pos hclosed)
    · by_cases hfull : sinkRoom u.inCap u.q = 0
      · exact ⟨u, _, polite_full, by rintro s rfl; exact (if_neg hclosed).trans (if_pos hfull)⟩
      · exact ⟨{ u with q := u.q ++ sinkTaken u.inCap u.q din }, _,
          polite_ok (BitVec.ofNat 32 (sinkTaken u.inCap u.q din).length) [],
          by rintro s rfl; exact (if_neg hclosed).trans (if_neg hfull)⟩
  | hsePoll =>
    by_cases hcfgd : u.cfgd = false
    · exact hmisuse (by rintro s rfl; exact if_pos hcfgd)
    · exact ⟨u.poll.unit, ⟨u.poll.status, BitVec.ofNat 32 u.poll.dout.length, u.poll.dout⟩,
        polite_more_or_empty (hsePollLoop_status u.pollFuel u.outCap.toNat u) _ _,
        by rintro s rfl; exact if_neg hcfgd⟩
  | hseFinish =>
    by_cases hcfgd : u.cfgd = false
    · exact hmisuse (by rintro s rfl; exact if_pos hcfgd)
    · exact ⟨{ u with finishing := true }, _, polite_done_or_more { u with finishing := true }.done,
        by rintro s rfl; exact if_neg hcfgd⟩
  | hseReset =>
    by_cases hcfgd : u.cfgd = false
    · exact hmisuse (by rintro s rfl; exact if_pos hcfgd)
    · exact ⟨u.encoderReset, _, polite_ok 0 [], by rintro s rfl; exact if_neg hcfgd⟩
  | _ => cases h

/-! ## SYS and MPU -/

/-- NOP and RDREG give a response and change nothing. -/
theorem exec_sys {i : Instr} (h : unitOf i = .sys) (hreset : i ≠ .resetAll) (s : State) :
    ∃ r, Polite r ∧ exec i s = .next (responded s r) := by
  cases i with
  | nop => exact ⟨_, polite_ok 0 [], rfl⟩
  | rdreg r => exact ⟨_, polite_ok 8 (leBytes 8 (regValue r s).toNat), rfl⟩
  | resetAll => exact absurd rfl hreset
  | _ => cases h

/-- A command of MPU reads its unit, MP_NL_SKIP and the count of free values drawn (log entry 7), and writes the unit
and the count. -/
theorem exec_mpu {i : Instr} (h : unitOf i = .mpu) (nl : Bool) (n : Nat) (m : Mpu) :
    ∃ m' n' r, Polite r ∧ ∀ s, s.mpNlSkip = nl → s.host.draws = n → s.mpu = m →
      exec i s = .next (responded { s with mpu := m', host := { s.host with draws := n' } } r) := by
  cases i with
  | mpReset => exact ⟨Mpu.cleared, n, _, polite_ok 0 [], by rintro s - rfl -; rfl⟩
  | mpFeed din =>
    exact ⟨(m.feed nl din).unit, drawsAfter n (m.feed nl din).dout, _,
      polite_ok (doutCount n (m.feed nl din).dout) (m.feed nl din).dout, by rintro s rfl rfl rfl; rfl⟩
  | _ => cases h

/-! ## FD -/

theorem onlyFdAndPorts_of_outcome {s : State} {d : FdDone} (h : StepOutcome s d) : OnlyFdAndPorts s d.state := by
  have hrefl := onlyFdAndPorts_refl s
  cases h with
  | ended | waiting => exact hrefl
  | fatal hframe | routed _ hframe | recorded _ hframe => exact onlyFdAndPorts_withFd hframe _
  | idle | cancelled | done | fileHdr | blkHdr | blkCSize | params | payload | checked =>
    exact onlyFdAndPorts_withFd hrefl _

theorem not_illegal_of_terminal {p : Phase} {st : Status} (h : Terminal p st) : st ≠ .illegal := by
  obtain ⟨-, rfl⟩ | ⟨-, rfl⟩ | ⟨-, rfl⟩ := h <;> decide

theorem not_misuse_of_terminal {p : Phase} {st : Status} (h : Terminal p st) : st ≠ .misuse := by
  obtain ⟨-, rfl⟩ | ⟨-, rfl⟩ | ⟨-, rfl⟩ := h <;> decide

theorem not_illegal_of_outcome {s : State} {d : FdDone} (h : StepOutcome s d) : d.status ≠ .illegal := by
  cases h with
  | ended hterm => exact not_illegal_of_terminal hterm
  | _ => exact Status.noConfusion

/-- A step is a MISUSE in IDLE alone, and consumes nothing there (R299). -/
theorem idle_of_misuse {s : State} {d : FdDone} (h : StepOutcome s d) (hmisuse : d.status = .misuse) :
    s.fd.phase = .idle ∧ d.used = 0 := by
  cases h with
  | idle hphase => exact ⟨hphase, rfl⟩
  | ended hterm => exact absurd hmisuse (not_misuse_of_terminal hterm)
  | _ => cases hmisuse

/-- No OK step leads to IDLE. -/
theorem phase_ne_idle_of_ok {s : State} {d : FdDone} (h : StepOutcome s d) (hok : d.status = .ok) :
    d.state.fd.phase ≠ .idle := by
  cases h with
  | ended hterm => exact absurd hok (not_ok_of_terminal hterm)
  | blkHdr =>
    show (if _ then Phase.blkCSize else Phase.params) ≠ .idle
    split <;> exact Phase.noConfusion
  | fileHdr | blkCSize | params | payload | routed | recorded | checked => exact Phase.noConfusion
  | _ => cases hok

theorem onlyFdAndPorts_of_runsTo {s t : State} {st : Status} {n : Nat} (h : RunsTo s t st n) : OnlyFdAndPorts s t := by
  induction h with
  | stop hstep _ => exact onlyFdAndPorts_of_outcome (fdStep_outcome hstep)
  | more hstep _ ih => exact onlyFdAndPorts_trans (onlyFdAndPorts_of_outcome (fdStep_outcome hstep)) ih

theorem not_illegal_of_runsTo {s t : State} {st : Status} {n : Nat} (h : RunsTo s t st n) : st ≠ .illegal := by
  induction h with
  | stop hstep _ => exact not_illegal_of_outcome (fdStep_outcome hstep)
  | more _ _ ih => exact ih

/-- A run is a MISUSE in IDLE alone, and consumes nothing there. -/
theorem idle_of_runsTo_misuse {s t : State} {st : Status} {n : Nat} (h : RunsTo s t st n) (hmisuse : st = .misuse) :
    s.fd.phase = .idle ∧ n = 0 := by
  induction h with
  | stop hstep _ => exact idle_of_misuse (fdStep_outcome hstep) hmisuse
  | more hstep _ ih =>
    obtain ⟨hidle, -⟩ := ih hmisuse
    exact absurd hidle (phase_ne_idle_of_ok (fdStep_outcome hstep) rfl)

/-- How a command of FD ends, if it is not refused. -/
def FdAnswers (s : State) (a : Answer) : Prop :=
  ∀ t, a = .next t → ∃ u r, OnlyFdAndPorts s u ∧ Polite r ∧ t = responded u r

theorem fdAnswers_next {s u : State} {r : Response} (h : OnlyFdAndPorts s u) (hr : Polite r) :
    FdAnswers s (.next (responded u r)) := by
  rintro _ ⟨⟩
  exact ⟨u, r, h, hr, rfl⟩

theorem fdAnswers_refused {s : State} {r : Refusal} : FdAnswers s (.refused r) := by rintro _ ⟨⟩

theorem fdAnswers_misuse (s : State) : FdAnswers s (.next s.raiseFdMisuse) :=
  fdAnswers_next (onlyFdAndPorts_withFd (onlyFdAndPorts_refl s) _) polite_misuse

theorem exec_fdRun_eq (s : State) :
    (∃ t st n, RunsTo s t st n ∧ exec .fdRun s = answer t st n []) ∨
      ∃ u r, OkSteps s u ∧ fdStep u = .refused r ∧ exec .fdRun s = .refused r := by
  obtain ⟨t, st, n, hrun⟩ | ⟨u, r, hsteps, hrefused⟩ := runsTo_or_refused s
  · exact .inl ⟨t, st, n, hrun, exec_fdRun_of_runsTo hrun⟩
  · exact .inr ⟨u, r, hsteps, hrefused, exec_fdRun_of_refused hsteps hrefused⟩

theorem fd_answers {i : Instr} (h : unitOf i = .fd) (s : State) : FdAnswers s (exec i s) := by
  have hwithFd (f : Fd) : OnlyFdAndPorts s (s.withFd f) := onlyFdAndPorts_withFd (onlyFdAndPorts_refl s) f
  cases i with
  | fdStart => exact fdAnswers_next (hwithFd _) (polite_ok 0 [])
  | fdPush din =>
    rw [exec, execFdPush]
    split_ifs
    exacts [fdAnswers_misuse s, fdAnswers_refused, fdAnswers_next (hwithFd _) (polite_ok _ [])]
  | fdEof =>
    rw [exec, execFdEof]
    split_ifs
    exacts [fdAnswers_misuse s, fdAnswers_next (hwithFd _) (polite_ok 0 [])]
  | fdAbort => exact fdAnswers_next (hwithFd _) (polite_ok 0 [])
  | fdResult i =>
    rw [exec, execFdResult]
    split_ifs
    · exact fdAnswers_misuse s
    · cases s.fd.results[i.toNat]? with
      | none => exact fdAnswers_misuse s
      | some r => exact fdAnswers_next (onlyFdAndPorts_refl s) (polite_ok _ r.bytes)
  | fdStep =>
    rw [exec, execFdStep]
    cases hstep : fdStep s with
    | refused r => exact fdAnswers_refused
    | done d =>
      have hout := fdStep_outcome hstep
      refine fdAnswers_next (r := ⟨d.status, BitVec.ofNat 32 d.used, []⟩) (onlyFdAndPorts_of_outcome hout)
        ⟨not_illegal_of_outcome hout, fun hmisuse => ?_⟩
      obtain ⟨-, hused⟩ := idle_of_misuse hout hmisuse
      exact ⟨congrArg (BitVec.ofNat 32) hused, rfl⟩
  | fdRun =>
    obtain ⟨t, st, n, hrun, heq⟩ | ⟨u, r, -, -, heq⟩ := exec_fdRun_eq s <;> rw [heq]
    · refine fdAnswers_next (r := ⟨st, BitVec.ofNat 32 n, []⟩) (onlyFdAndPorts_of_runsTo hrun)
        ⟨not_illegal_of_runsTo hrun, fun hmisuse => ?_⟩
      obtain ⟨-, hn⟩ := idle_of_runsTo_misuse hrun hmisuse
      exact ⟨congrArg (BitVec.ofNat 32) hn, rfl⟩
    · exact fdAnswers_refused
  | _ => cases h

/-! ## O14 -/

/-- What every command that answers gives (R130). -/
def AnswersOnce (s t : State) : Prop :=
  s.host.events <+: t.host.events ∧
    ∃ r : Response, t.host.responses = s.host.responses ++ [r] ∧ r.status ≠ .illegal ∧
      (r.status = .misuse → r.count = 0#32 ∧ r.dout = [])

theorem answersOnce_responded {s u : State} {r : Response} (hevents : s.host.events <+: u.host.events)
    (hresponses : u.host.responses = s.host.responses) (hr : Polite r) : AnswersOnce s (responded u r) := by
  refine ⟨hevents, r, ?_, hr.not_illegal, hr.misuse_empty⟩
  show u.host.responses ++ [r] = s.host.responses ++ [r]
  rw [hresponses]

theorem answersOnce_of_answersFrom {α : Type} {get : State → α} {put : State → α → State} {i : Instr} {s t : State}
    (h : AnswersFrom get put i) (hput : ∀ s a, (put s a).host = s.host) (hexec : exec i s = .next t) :
    AnswersOnce s t := by
  obtain ⟨_, _, hr, hdo⟩ := h (get s)
  cases (hdo s rfl).symm.trans hexec
  exact answersOnce_responded (by rw [hput]) (by rw [hput]) hr

/-- Settles O14, unit by unit. -/
theorem everyCommandAnswersOnce : Obligations.EveryCommandAnswersOnce := by
  intro i s t hexec
  show AnswersOnce s t
  cases hunit : unitOf i with
  | sys =>
    by_cases hreset : i = .resetAll
    · subst hreset
      cases hexec
      exact answersOnce_responded (u := s.resetUnits) List.prefix_rfl rfl (polite_ok 0 [])
    · obtain ⟨r, hr, heq⟩ := exec_sys hunit hreset s
      cases heq.symm.trans hexec
      exact answersOnce_responded List.prefix_rfl rfl hr
  | crc => exact answersOnce_of_answersFrom (crc_answersFrom hunit) (fun _ _ => rfl) hexec
  | hsd => exact answersOnce_of_answersFrom (hsd_answersFrom hunit) (fun _ _ => rfl) hexec
  | hse => exact answersOnce_of_answersFrom (hse_answersFrom hunit) (fun _ _ => rfl) hexec
  | mpu =>
    obtain ⟨_, _, _, hr, hdo⟩ := exec_mpu hunit s.mpNlSkip s.host.draws s.mpu
    cases (hdo s rfl rfl rfl).symm.trans hexec
    exact answersOnce_responded List.prefix_rfl rfl hr
  | fd =>
    obtain ⟨u, r, hframe, hr, rfl⟩ := fd_answers hunit s t hexec
    exact answersOnce_responded hframe.events hframe.responses hr

/-! ## O12 -/

/-- Settles O12: each unit's commands put back that unit alone. -/
theorem commandsTouchOnlyTheirUnit : Obligations.CommandsTouchOnlyTheirUnit := by
  intro i s t hexec
  cases hunit : unitOf i with
  | sys =>
    by_cases hreset : i = .resetAll
    · subst hreset
      cases hexec
      simp [State.reply, State.resetUnits]
    · obtain ⟨r, -, heq⟩ := exec_sys hunit hreset s
      cases heq.symm.trans hexec
      simp [responded]
  | crc =>
    obtain ⟨_, _, -, hdo⟩ := crc_answersFrom hunit s.crcAcc
    cases (hdo s rfl).symm.trans hexec
    simp [responded]
  | hsd =>
    obtain ⟨_, _, -, hdo⟩ := hsd_answersFrom hunit s.hsd
    cases (hdo s rfl).symm.trans hexec
    simp [responded]
  | hse =>
    obtain ⟨_, _, -, hdo⟩ := hse_answersFrom hunit s.hse
    cases (hdo s rfl).symm.trans hexec
    simp [responded]
  | mpu =>
    obtain ⟨_, _, _, -, hdo⟩ := exec_mpu hunit s.mpNlSkip s.host.draws s.mpu
    cases (hdo s rfl rfl rfl).symm.trans hexec
    simp [responded]
  | fd =>
    obtain ⟨u, r, hframe, -, rfl⟩ := fd_answers hunit s t hexec
    simp [responded, hframe.crcAcc, hframe.hsd, hframe.hse, hframe.mpu, hframe.mpNlSkip, hframe.pending]

/-! ## O13 -/

/-- FD, MP_NL_SKIP and the host's side of one state among the other units of another. -/
def graftFd (s o : State) : State := { o with fd := s.fd, mpNlSkip := s.mpNlSkip, host := s.host }

/-- What a step answers, among other units. -/
def graftAnswer (o : State) : FdAnswer → FdAnswer
  | .done d => .done ⟨graftFd d.state o, d.status, d.used⟩
  | .refused r => .refused r

/-- What a command answers, among other units. -/
def graftNext (o : State) : Answer → Answer
  | .next t => .next (graftFd t o)
  | a => a

/-- A part of a command that does not see the other units; `graft` is how its answers stand among them. -/
def Blind {β : Type} (graft : State → β → β) (f : State → β) : Prop := ∀ s o, f (graftFd s o) = graft o (f s)

theorem blind_ite {β : Type} {graft : State → β → β} {c : State → Prop} [DecidablePred c] {f g : State → β}
    (hc : ∀ s o, c (graftFd s o) ↔ c s) (hf : Blind graft f) (hg : Blind graft g) :
    Blind graft fun s => if c s then f s else g s := by
  intro s o
  dsimp only
  rw [apply_ite (graft o)]
  exact if_congr (hc s o) (hf s o) (hg s o)

theorem blind_fdRead {n : State → Nat} {code : FatalCode} {next : State → List Byte → State → FdAnswer}
    (hn : ∀ s o, n (graftFd s o) = n s) (hself : ∀ s o, next (graftFd s o) = next s)
    (hnext : ∀ s h, Blind graftAnswer (next s h)) : Blind graftAnswer fun s => fdRead (n s) code s (next s) := by
  refine blind_ite (fun s o => ?_) (fun s o => ?_) (blind_ite (fun _ _ => Iff.rfl) (fun _ _ => rfl) fun _ _ => rfl)
  · rw [hn]
    rfl
  · rw [hn, hself]
    exact hnext s (s.fd.front (n s)) (s.withFd (s.fd.consumed (n s))) o

theorem blind_fdFileHdr : Blind graftAnswer fdFileHdr :=
  blind_fdRead (fun _ _ => rfl) (fun _ _ => rfl) fun _ _ =>
    blind_ite (fun _ _ => Iff.rfl) (fun _ _ => rfl) fun _ _ => rfl

theorem blind_fdBlkHdr : Blind graftAnswer fdBlkHdr :=
  blind_ite (fun _ _ => Iff.rfl) (fun _ _ => rfl) <| blind_ite (fun _ _ => Iff.rfl) (fun _ _ => rfl) <|
    blind_fdRead (fun _ _ => rfl) (fun _ _ => rfl) fun _ _ =>
      blind_ite (fun _ _ => Iff.rfl) (fun _ _ => rfl) <|
        blind_ite (fun _ _ => Iff.rfl) (fun _ _ => rfl) fun _ _ => rfl

theorem blind_fdBlkCSize : Blind graftAnswer fdBlkCSize :=
  blind_fdRead (fun _ _ => rfl) (fun _ _ => rfl) fun _ _ _ _ => rfl

theorem blind_fdParams : Blind graftAnswer fdParams := blind_fdRead (fun _ _ => rfl) (fun _ _ => rfl) fun _ _ _ _ => rfl

theorem blind_fdPayload : Blind graftAnswer fdPayload :=
  blind_fdRead (fun _ _ => rfl) (fun _ _ => rfl) fun _ _ _ _ => rfl

theorem blind_fdCrc : Blind graftAnswer fdCrc := blind_fdRead (fun _ _ => rfl) (fun _ _ => rfl) fun _ _ _ _ => rfl

theorem blind_fdDecoded : Blind graftAnswer fdDecoded := blind_ite (fun _ _ => Iff.rfl) (fun _ _ => rfl) fun _ _ => rfl

theorem blind_fdRouteGcode : Blind graftAnswer fdRouteGcode :=
  blind_ite (fun _ _ => Iff.rfl) (fun _ _ => rfl) <| blind_ite (fun _ _ => Iff.rfl) (fun _ _ => rfl)
    fun s o => blind_fdDecoded ((s.withFd (s.fd.withRoute .text s.gcodeText)).deliver (.text s.gcodeText)) o

theorem blind_fdRouteThumbnail : Blind graftAnswer fdRouteThumbnail :=
  blind_ite (fun _ _ => Iff.rfl) (fun _ _ => rfl) <| blind_ite (fun _ _ => Iff.rfl) (fun _ _ => rfl) <|
    blind_ite (fun _ _ => Iff.rfl)
      (fun s o => blind_fdDecoded (s.blockImageCalled.withFd (s.fd.withRoute .image s.fd.dec)) o) fun _ _ => rfl

theorem blind_fdRouteProperty : Blind graftAnswer fdRouteProperty :=
  blind_ite (fun _ _ => Iff.rfl) (fun _ _ => rfl)
    fun s o => blind_fdDecoded ((s.withFd (s.fd.withRoute .ini s.fd.dec)).deliver (.ini s.fd.dec)) o

theorem blind_fdRoute : Blind graftAnswer fdRoute :=
  blind_ite (fun _ _ => Iff.rfl) blind_fdRouteGcode <|
    blind_ite (fun _ _ => Iff.rfl) blind_fdRouteThumbnail blind_fdRouteProperty

theorem afterDecompress_graftFd (s o : State) :
    (graftFd s o).afterDecompress = graftFd s.afterDecompress o := by
  unfold State.afterDecompress
  rw [apply_ite (graftFd · o)]
  rfl

theorem blind_fdDecode : Blind graftAnswer fdDecode := by
  intro s o
  have hdec : (graftFd s o).decompressed = s.decompressed := rfl
  unfold fdDecode
  rw [hdec, afterDecompress_graftFd]
  cases s.decompressed with
  | error code => rfl
  | ok d =>
    exact blind_ite (c := fun _ => blockLimit < d.length) (f := fun _ => .refused .blockTooLong)
      (g := fun t => fdRoute (t.withFd (s.fd.withDec d))) (fun _ _ => Iff.rfl) (fun _ _ => rfl)
      (fun t o => blind_fdRoute (t.withFd (s.fd.withDec d)) o) s.afterDecompress o

/-- A step sees FD, MP_NL_SKIP and the host's side alone (R297). -/
theorem blind_fdStep : Blind graftAnswer fdStep := by
  intro s o
  unfold fdStep
  rw [show (graftFd s o).fd.phase = s.fd.phase from rfl]
  cases s.fd.phase with
  | idle | done | error | cancelled => rfl
  | fileHdr => exact blind_fdFileHdr s o
  | blkHdr => exact blind_fdBlkHdr s o
  | blkCSize => exact blind_fdBlkCSize s o
  | params => exact blind_fdParams s o
  | payload => exact blind_fdPayload s o
  | decode => exact blind_fdDecode s o
  | crc => exact blind_fdCrc s o

theorem blind_fdRunLoop (fuel n : Nat) : Blind graftAnswer (fdRunLoop fuel · n) := by
  induction fuel generalizing n with
  | zero => exact fun _ _ => rfl
  | succ fuel ih =>
    intro s o
    dsimp only
    rw [fdRunLoop, fdRunLoop, blind_fdStep]
    cases fdStep s with
    | refused r => rfl
    | done d =>
      exact blind_ite (c := fun _ => d.status = .ok) (f := (fdRunLoop fuel · (n + d.used)))
        (g := (fdReturn · d.status (n + d.used))) (fun _ _ => Iff.rfl) (ih _) (fun _ _ => rfl) d.state o

theorem fdRespond_graftAnswer (o : State) (a : FdAnswer) : fdRespond (graftAnswer o a) = graftNext o (fdRespond a) := by
  cases a <;> rfl

/-- A command of FD sees FD, MP_NL_SKIP and the host's side alone. -/
theorem blind_exec {i : Instr} (h : unitOf i = .fd) : Blind graftNext (exec i) := by
  cases i with
  | fdStart | fdAbort => exact fun _ _ => rfl
  | fdPush din =>
    exact blind_ite (fun _ _ => Iff.rfl) (fun _ _ => rfl) <|
      blind_ite (fun _ _ => Iff.rfl) (fun _ _ => rfl) fun _ _ => rfl
  | fdEof => exact blind_ite (fun _ _ => Iff.rfl) (fun _ _ => rfl) fun _ _ => rfl
  | fdResult i =>
    refine blind_ite (fun _ _ => Iff.rfl) (fun _ _ => rfl) fun s o => ?_
    rw [show (graftFd s o).fd.results = s.fd.results from rfl]
    cases s.fd.results[i.toNat]? <;> rfl
  | fdStep =>
    intro s o
    rw [exec, execFdStep, blind_fdStep, fdRespond_graftAnswer]
    rfl
  | fdRun =>
    intro s o
    have hrun : fdRun (graftFd s o) = graftAnswer o (fdRun s) := blind_fdRunLoop s.fd.runFuel 0 s o
    rw [exec, execFdRun, hrun, fdRespond_graftAnswer]
    rfl
  | _ => cases h

/-- Settles O13: a command of the unit answers from the unit alone; FD's are carried over to the other state's units. -/
theorem commandsReadOnlyTheirUnit : Obligations.CommandsReadOnlyTheirUnit := by
  intro i s s' t hhost hnl hexec
  refine ⟨fun hunit hsame => ?_, fun hunit hsame => ?_, fun hunit hsame => ?_, fun hunit hsame => ?_,
    fun hunit hsame => ?_⟩
  · obtain ⟨_, _, -, hdo⟩ := crc_answersFrom hunit s.crcAcc
    cases (hdo s rfl).symm.trans hexec
    exact ⟨_, hdo s' hsame.symm, rfl, by simp [responded, State.reply, hhost]⟩
  · obtain ⟨_, _, -, hdo⟩ := hsd_answersFrom hunit s.hsd
    cases (hdo s rfl).symm.trans hexec
    exact ⟨_, hdo s' hsame.symm, rfl, by simp [responded, State.reply, hhost]⟩
  · obtain ⟨_, _, -, hdo⟩ := hse_answersFrom hunit s.hse
    cases (hdo s rfl).symm.trans hexec
    exact ⟨_, hdo s' hsame.symm, rfl, by simp [responded, State.reply, hhost]⟩
  · obtain ⟨_, _, _, -, hdo⟩ := exec_mpu hunit s.mpNlSkip s.host.draws s.mpu
    cases (hdo s rfl rfl rfl).symm.trans hexec
    exact ⟨_, hdo s' hnl.symm (by rw [hhost]) hsame.symm, rfl, by simp [responded, State.reply, hhost]⟩
  · have hgraft : graftFd s s' = s' := by rw [graftFd, hhost, hnl, hsame]
    have hexec' := blind_exec hunit s s'
    rw [hgraft, hexec] at hexec'
    exact ⟨_, hexec', rfl, rfl⟩

/-! ## O15 -/

section Refusals

variable {s : State} {r : Refusal}

theorem fdRead_ne_refused {n : Nat} {code : FatalCode} {next : List Byte → State → FdAnswer}
    (hnext : ∀ h t, next h t ≠ .refused r) : fdRead n code s next ≠ .refused r := by
  obtain ⟨-, h⟩ | ⟨-, -, h⟩ | ⟨-, -, h⟩ := fdRead_cases n code s next <;> rw [h]
  · exact hnext _ _
  · exact FdAnswer.noConfusion
  · exact FdAnswer.noConfusion

theorem fdFileHdr_ne_refused : fdFileHdr s ≠ .refused r :=
  fdRead_ne_refused fun h t => by
    dsimp only
    split <;> exact FdAnswer.noConfusion

theorem fdBlkHdr_ne_refused : fdBlkHdr s ≠ .refused r := by
  unfold fdBlkHdr
  split
  next => exact FdAnswer.noConfusion
  next =>
    split
    next => exact FdAnswer.noConfusion
    next =>
      refine fdRead_ne_refused fun h t => ?_
      dsimp only
      split_ifs <;> exact FdAnswer.noConfusion

theorem fdDecoded_ne_refused : fdDecoded s ≠ .refused r := by
  unfold fdDecoded
  split <;> exact FdAnswer.noConfusion

theorem fdRouteThumbnail_ne_refused : fdRouteThumbnail s ≠ .refused r := by
  unfold fdRouteThumbnail
  split_ifs
  exacts [FdAnswer.noConfusion, FdAnswer.noConfusion, fdDecoded_ne_refused, FdAnswer.noConfusion]

theorem fdRouteProperty_ne_refused : fdRouteProperty s ≠ .refused r := by
  unfold fdRouteProperty
  split
  exacts [FdAnswer.noConfusion, fdDecoded_ne_refused]

/-- Content routing refuses a Gcode block of an accepted encoding, for its text alone. -/
theorem too_long_of_fdRoute_refused (h : fdRoute s = .refused r) :
    r = .blockTooLong ∧ s.fd.btype = 1#16 ∧ ¬ 2 < s.fd.paramCode.toNat ∧ blockLimit < s.gcodeText.length := by
  unfold fdRoute at h
  split at h
  next hbtype =>
    unfold fdRouteGcode at h
    split_ifs at h with hcode hlong
    · cases h
    · cases h
      exact ⟨rfl, hbtype, hcode, hlong⟩
    · exact absurd h fdDecoded_ne_refused
  next =>
    split at h
    exacts [absurd h fdRouteThumbnail_ne_refused, absurd h fdRouteProperty_ne_refused]

/-- A code that is not 0 and not above 2. -/
theorem eq_one_or_two_of_le {c : BitVec 16} (h0 : c ≠ 0#16) (h2 : ¬ 2 < c.toNat) : c = 1 ∨ c = 2 := by
  have : c.toNat ≠ 0 := fun h => h0 (BitVec.eq_of_toNat_eq h)
  obtain h | h : c.toNat = 1 ∨ c.toNat = 2 := by omega
  exacts [.inl (BitVec.eq_of_toNat_eq h), .inr (BitVec.eq_of_toNat_eq h)]

theorem oversized_of_fdDecode_refused (hphase : s.fd.phase = .decode) (h : fdDecode s = .refused r) :
    r = .blockTooLong ∧ Oversized s := by
  cases hdec : s.decompressed with
  | error code =>
    rw [fdDecode, hdec] at h
    cases h
  | ok d =>
    have hto := decodesTo_of_decompressed hdec
    by_cases hlong : blockLimit < d.length
    · rw [fdDecode_of_too_long hto hlong] at h
      cases h
      exact ⟨rfl, hphase, d, _, hto, .inl hlong⟩
    · rw [fdDecode_of_fits hto hlong] at h
      obtain ⟨rfl, hbtype, hcode, htext⟩ := too_long_of_fdRoute_refused h
      rw [gcodeText_withDecoded, afterDecompress_fd, afterDecompress_mpNlSkip] at htext
      have hfd : (withDecoded s.afterDecompress d).fd = s.fd.withDec d := by
        rw [State.withFd_fd, afterDecompress_fd]
      rw [hfd] at hbtype hcode
      split at htext
      next => exact absurd htext hlong
      next h0 => exact ⟨rfl, hphase, d, _, hto, .inr ⟨hbtype, eq_one_or_two_of_le h0 hcode, htext⟩⟩

/-- The refused steps are those of an oversized block. -/
theorem oversized_of_fdStep_refused (h : fdStep s = .refused r) : r = .blockTooLong ∧ Oversized s := by
  unfold fdStep at h
  split at h
  next => cases h
  next => exact absurd h fdFileHdr_ne_refused
  next => exact absurd h fdBlkHdr_ne_refused
  next => exact absurd h (fdRead_ne_refused fun _ _ => FdAnswer.noConfusion)
  next => exact absurd h (fdRead_ne_refused fun _ _ => FdAnswer.noConfusion)
  next => exact absurd h (fdRead_ne_refused fun _ _ => FdAnswer.noConfusion)
  next hphase => exact oversized_of_fdDecode_refused hphase h
  next => exact absurd h (fdRead_ne_refused fun _ _ => FdAnswer.noConfusion)
  next => cases h
  next => cases h
  next => cases h

theorem not_refused_of_answersFrom {α : Type} {get : State → α} {put : State → α → State} {i : Instr}
    (h : AnswersFrom get put i) : exec i s ≠ .refused r := by
  obtain ⟨_, _, -, hdo⟩ := h (get s)
  rw [hdo s rfl]
  rintro ⟨⟩

/-- The commands outside FD are never refused. -/
theorem unitOf_eq_fd_of_refused {i : Instr} (h : exec i s = .refused r) : unitOf i = .fd := by
  cases hunit : unitOf i with
  | fd => rfl
  | sys =>
    by_cases hreset : i = .resetAll
    · subst hreset
      cases h
    · obtain ⟨_, -, heq⟩ := exec_sys hunit hreset s
      cases heq.symm.trans h
  | crc => exact absurd h (not_refused_of_answersFrom (crc_answersFrom hunit))
  | hsd => exact absurd h (not_refused_of_answersFrom (hsd_answersFrom hunit))
  | hse => exact absurd h (not_refused_of_answersFrom (hse_answersFrom hunit))
  | mpu =>
    obtain ⟨_, _, _, -, hdo⟩ := exec_mpu hunit s.mpNlSkip s.host.draws s.mpu
    cases (hdo s rfl rfl rfl).symm.trans h

theorem too_long_of_fdPush_refused {din : List Byte} (h : exec (.fdPush din) s = .refused r) :
    r = .sourceTooLong ∧ 2 ^ 64 ≤ s.fd.cursor.toNat + s.fd.src.length + din.length := by
  rw [exec, execFdPush] at h
  split_ifs at h with hmisuse hlong
  cases h
  exact ⟨rfl, hlong⟩

theorem fdResult_ne_refused (i : BitVec 24) : exec (.fdResult i) s ≠ .refused r := by
  rw [exec, execFdResult]
  split
  · rintro ⟨⟩
  · cases s.fd.results[i.toNat]? <;> rintro ⟨⟩

end Refusals

/-- Settles O15: the dispatcher's commands one by one. -/
theorem onlyOversizeRefuses : Obligations.OnlyOversizeRefuses := by
  intro i s r h
  have hunit := unitOf_eq_fd_of_refused h
  cases i with
  | fdPush din =>
    obtain ⟨rfl, hlong⟩ := too_long_of_fdPush_refused h
    exact .inl ⟨rfl, din, rfl, hlong⟩
  | fdStep =>
    rw [exec, execFdStep] at h
    cases hstep : fdStep s with
    | done d => rw [hstep] at h; cases h
    | refused r' =>
      rw [hstep] at h
      cases h
      obtain ⟨rfl, hover⟩ := oversized_of_fdStep_refused hstep
      exact .inr ⟨rfl, .inl ⟨rfl, hover⟩⟩
  | fdRun =>
    obtain ⟨t, st, n, -, heq⟩ | ⟨u, r', hsteps, hrefused, heq⟩ := exec_fdRun_eq s
    · cases heq.symm.trans h
    · cases heq.symm.trans h
      obtain ⟨rfl, hover⟩ := oversized_of_fdStep_refused hrefused
      exact .inr ⟨rfl, .inr ⟨rfl, u, hsteps, hover⟩⟩
  | fdEof =>
    rw [exec, execFdEof] at h
    split at h <;> cases h
  | fdResult n => exact absurd h (fdResult_ne_refused n)
  | fdStart | fdAbort => cases h
  | _ => cases hunit

end Sys2Proof.Proofs

/-! PROOFS of the statement about whole containers (spec/45_framing_dispatcher.md R315, R317): the steps of FD_RUN
through one plain block, and through a list of them by induction. -/

namespace Sys2Proof.Proofs

open Sys2Proof.Machine Sys2Proof.Claims

/-! ## Runs put together -/

/-- OK steps that consume `k` bytes lead from `s` to `t`: a run from `t` is one from `s`. -/
def LeadsTo (s t : State) (k : Nat) : Prop := ∀ u st n, RunsTo t u st n → RunsTo s u st (k + n)

theorem leadsTo_step {s t : State} {k : Nat} (h : fdStep s = .done ⟨t, .ok, k⟩) : LeadsTo s t k :=
  fun _ _ _ hrun => .more h hrun

theorem leadsTo_trans {s t u : State} {k k' : Nat} (h : LeadsTo s t k) (h' : LeadsTo t u k') :
    LeadsTo s u (k + k') := fun v st n hrun => by
  rw [Nat.add_assoc]
  exact h v st (k' + n) (h' v st n hrun)

/-! ## The steps of a plain container -/

/-- A read of bytes that are there. -/
theorem fdRead_of_append {s : State} {a rest : List Byte} {n : Nat} (hsrc : s.fd.src = a ++ rest) (hn : a.length = n)
    (code : FatalCode) (next : List Byte → State → FdAnswer) :
    fdRead n code s next = next a (s.withFd { s.fd with src := rest, cursor := s.fd.cursor + BitVec.ofNat 64 n }) := by
  subst hn
  have hle : a.length ≤ s.fd.src.length := by rw [hsrc, List.length_append]; exact Nat.le_add_right _ _
  rw [fdRead, if_pos hle, Fd.front, Fd.consumed, hsrc, List.take_left, List.drop_left]

section Steps

variable {s : State} {rest : List Byte}

theorem fdStep_fileHdr_ok {h : List Byte} (hphase : s.fd.phase = .fileHdr) (hsrc : s.fd.src = h ++ rest)
    (hlen : h.length = 10) (hkind : le16 h 8 = 1#16) :
    fdStep s = .done ⟨s.withFd
      { { s.fd with src := rest, cursor := s.fd.cursor + 10#64 }.gotFileHdr h with
        hdrDone := true, phase := .blkHdr }, .ok, 10⟩ := by
  rw [fdStep_of_fileHdr hphase, fdFileHdr, fdRead_of_append hsrc hlen]
  exact if_neg (by rw [hkind]; decide)

theorem fdStep_blkHdr_done (hphase : s.fd.phase = .blkHdr) (habort : s.fd.abortReq = false) (heof : s.fd.eof = true)
    (hsrc : s.fd.src = []) : fdStep s = .done ⟨s.withFd { s.fd with phase := .done }, .done, 0⟩ := by
  rw [fdStep_of_blkHdr hphase, fdBlkHdr, habort, if_neg Bool.false_ne_true]
  exact if_pos ⟨heof, hsrc⟩

theorem fdStep_blkHdr_plain {h : List Byte} (hphase : s.fd.phase = .blkHdr) (habort : s.fd.abortReq = false)
    (hsrc : s.fd.src = h ++ rest) (hlen : h.length = 8) (htype : (le16 h 0).toNat ≤ 4) (hcomp : le16 h 2 = 0#16) :
    fdStep s = .done ⟨s.withFd
      { { s.fd with src := rest, cursor := s.fd.cursor + 8#64 }.gotBlkHdr h with phase := .params }, .ok, 8⟩ := by
  have hmore : ¬ (s.fd.eof = true ∧ s.fd.src = []) := by
    rintro ⟨-, hnil⟩
    rw [hsrc, List.append_eq_nil_iff] at hnil
    obtain ⟨rfl, -⟩ := hnil
    cases hlen
  rw [fdStep_of_blkHdr hphase, fdBlkHdr, habort, if_neg Bool.false_ne_true, if_neg hmore, fdRead_of_append hsrc hlen]
  rw [if_neg (by omega), hcomp]
  rfl

theorem fdStep_params_plain {p : List Byte} (hphase : s.fd.phase = .params) (hsrc : s.fd.src = p ++ rest)
    (hlen : p.length = 2) (htype : s.fd.btype ≠ 5#16) :
    fdStep s = .done ⟨s.withFd
      { s.fd with
        src := rest, cursor := s.fd.cursor + 2#64, bparam := BitVec.ofNat 48 (leNat p),
        bcrc := crcUpdate s.fd.bcrc p, phase := .payload }, .ok, 2⟩ := by
  have hparam : s.fd.paramLen = 2 := if_neg htype
  rw [fdStep_of_params hphase, fdParams, hparam, fdRead_of_append hsrc hlen]
  rfl

theorem fdStep_payload_plain {p : List Byte} (hphase : s.fd.phase = .payload) (hsrc : s.fd.src = p ++ rest)
    (hcomp : s.fd.comp = 0#16) (hsize : p.length = s.fd.busize.toNat) :
    fdStep s = .done ⟨s.withFd
      { s.fd with
        src := rest, cursor := s.fd.cursor + BitVec.ofNat 64 p.length, pay := p, bcrc := crcUpdate s.fd.bcrc p,
        phase := .decode }, .ok, p.length⟩ := by
  have hpay : s.fd.payLen = p.length := by
    rw [hsize]
    exact if_neg (not_not.mpr hcomp)
  rw [fdStep_of_payload hphase, fdPayload, hpay, fdRead_of_append hsrc rfl]
  rfl

/-- A plain block is delivered as it is and goes on to CRC. -/
theorem fdStep_decode_plain {d : List Byte} (hphase : s.fd.phase = .decode) (hpay : s.fd.pay = d)
    (hcomp : s.fd.comp = 0#16) (htype : s.fd.btype ≠ 5#16) (hparam : s.fd.paramCode = 0#16) (hkind : s.fd.ckKind = 1#16)
    (hfits : d.length ≤ blockLimit) :
    fdStep s = .done ⟨(s.deliver (if s.fd.btype = 1#16 then .text d else .ini d)).withFd
      { s.fd with
        dec := d, route := d, routeKind := if s.fd.btype = 1#16 then .text else .ini, phase := .crc }, .ok, 0⟩ := by
  have hfits' : ¬ blockLimit < d.length := Nat.not_lt.mpr hfits
  have hdec : DecodesTo s d s := .inl ⟨hcomp, hpay.symm, rfl⟩
  have htext : (withDecoded s d).gcodeText = d := (gcodeText_withDecoded s d).trans (if_pos hparam)
  rw [fdStep_of_decode hphase, fdDecode_of_fits hdec hfits']
  by_cases hgcode : s.fd.btype = 1#16
  · have hcode : ¬ 2 < (withDecoded s d).fd.paramCode.toNat := by
      rw [show (withDecoded s d).fd.paramCode = 0#16 from hparam]
      decide
    rw [fdRoute_of_gcode hgcode, fdRouteGcode, htext, if_neg hcode, if_neg hfits', if_pos hgcode, if_pos hgcode]
    exact if_pos hkind
  · have hcode : ¬ (withDecoded s d).fd.paramCode ≠ 0#16 := not_not.mpr hparam
    rw [fdRoute_of_property hgcode htype, fdRouteProperty, if_neg hcode, if_neg hgcode, if_neg hgcode]
    exact if_pos hkind

theorem fdStep_crc_ok {c : List Byte} (hphase : s.fd.phase = .crc) (hsrc : s.fd.src = c ++ rest) (hlen : c.length = 4) :
    fdStep s = .done ⟨s.withFd
      { { s.fd with src := rest, cursor := s.fd.cursor + 4#64 }.appendRecord (le32 c 0 == s.fd.bcrc) (le32 c 0)
          s.fd.bcrc with phase := .blkHdr }, .ok, 4⟩ := by
  rw [fdStep_of_crc hphase, fdCrc, fdRead_of_append hsrc hlen]
  rfl

end Steps

/-! ## A plain block -/

/-- The 8 bytes of a plain block's header. -/
def PlainBlock.header (b : PlainBlock) : List Byte :=
  leBytes 2 b.btype.toNat ++ leBytes 2 0 ++ leBytes 4 b.payload.length

theorem wire_eq (b : PlainBlock) (rest : List Byte) :
    b.wire ++ rest = PlainBlock.header b ++ (leBytes 2 0 ++ (b.payload ++ (leBytes 4 b.stored.toNat ++ rest))) := by
  simp only [PlainBlock.wire, PlainBlock.body, PlainBlock.header, List.append_assoc]

theorem header_length (b : PlainBlock) : (PlainBlock.header b).length = 8 := rfl

theorem le16_header_type (b : PlainBlock) : le16 (PlainBlock.header b) 0 = b.btype := le16_of_window rfl

theorem le16_header_compression (b : PlainBlock) : le16 (PlainBlock.header b) 2 = 0#16 := le16_of_window rfl

theorem le32_header_size (b : PlainBlock) (h : b.payload.length < 2 ^ 32) :
    le32 (PlainBlock.header b) 4 = BitVec.ofNat 32 b.payload.length :=
  le32_of_window (by rw [BitVec.toNat_ofNat, Nat.mod_eq_of_lt h]; rfl)

theorem wire_length (b : PlainBlock) : b.wire.length = 8 + (2 + (b.payload.length + (0 + 4))) := by
  have h := congrArg List.length (wire_eq b [])
  simp only [List.append_nil, List.length_append, header_length, leBytes_length] at h
  omega

/-- At a block boundary of a container of checksum kind 1 whose end is known: what is left of it, how much has been
read, and the records made. -/
structure AtBoundary (f : Fd) (rest : List Byte) (cursor : BitVec 64) (records : List BlockRecord) : Prop where
  phase : f.phase = .blkHdr
  src : f.src = rest
  cursor : f.cursor = cursor
  eof : f.eof = true
  abortReq : f.abortReq = false
  ckKind : f.ckKind = 1#16
  error : f.error = .none
  magic : f.magic = 0x45444347#32
  magicOk : f.magicOk = true
  results : f.results = records

/-- The record made of a plain block that has been read, decoded and routed. -/
theorem record_eq {f : Fd} {b : PlainBlock} (hsize : b.payload.length < 2 ^ 32) (hkind : f.ckKind = 1#16)
    (hcrc : f.bcrc = crcUpdate 0 b.body) (hbtype : f.btype = b.btype) (hcomp : f.comp = 0#16)
    (hbusize : f.busize = BitVec.ofNat 32 b.payload.length) (hbcsize : f.bcsize = 0#32) (hbparam : f.bparam = 0#48)
    (hdec : f.dec = b.payload) (hroute : f.route = b.payload)
    (hkindRoute : f.routeKind = if b.btype = 1#16 then .text else .ini) :
    f.record (b.stored == f.bcrc) b.stored f.bcrc = b.record := by
  have hmatch : decide (b.payload.length ≠ (BitVec.ofNat 32 b.payload.length).toNat) = false := by
    rw [BitVec.toNat_ofNat, Nat.mod_eq_of_lt hsize]
    exact decide_eq_false (not_not.mpr rfl)
  rw [Fd.record, PlainBlock.record, hkind, hcrc, hbtype, hcomp, hbusize, hbcsize, hbparam, hdec, hroute, hkindRoute,
    hmatch]
  rfl

/-- The cursor past a plain block, part by part. -/
theorem cursor_past_block (cursor : BitVec 64) (b : PlainBlock) :
    cursor + 8#64 + 2#64 + BitVec.ofNat 64 b.payload.length + 4#64 = cursor + BitVec.ofNat 64 b.wire.length := by
  rw [wire_length]
  apply BitVec.eq_of_toNat_eq
  simp only [BitVec.toNat_add, BitVec.toNat_ofNat]
  omega

/-- The CRC over a plain block, part by part. -/
theorem crc_of_block (b : PlainBlock) :
    crcUpdate (crcUpdate (crcUpdate 0 (PlainBlock.header b)) (leBytes 2 0)) b.payload = crcUpdate 0 b.body := by
  rw [crcUpdate_append, crcUpdate_append]
  rfl

/-- The steps of a plain block: BLK_HDR, PARAMS, PAYLOAD, DECODE and CRC, to the next boundary. -/
theorem leadsTo_block {s : State} {b : PlainBlock} {rest : List Byte} {cursor : BitVec 64} {records : List BlockRecord}
    (htype : b.btype.toNat ≤ 4) (hsize : b.payload.length ≤ blockLimit)
    (h : AtBoundary s.fd (b.wire ++ rest) cursor records) :
    ∃ t, LeadsTo s t b.wire.length ∧
      AtBoundary t.fd rest (cursor + BitVec.ofNat 64 b.wire.length) (records ++ [b.record]) ∧
        t.host.events = s.host.events ++ [b.event] := by
  have hlt : b.payload.length < 2 ^ 32 := Nat.lt_of_le_of_lt hsize (by decide)
  have hne : b.btype ≠ 5#16 := fun heq => by
    rw [heq] at htype
    exact absurd htype (by decide)
  have htype0 := le16_header_type b
  have hbusize := le32_header_size b hlt
  have hsize' : b.payload.length = (le32 (PlainBlock.header b) 4).toNat := by
    rw [hbusize, BitVec.toNat_ofNat, Nat.mod_eq_of_lt hlt]
  have hblkHdr := fdStep_blkHdr_plain h.phase h.abortReq (h.src.trans (wire_eq b rest)) (header_length b)
    (by rw [htype0]; exact htype) (le16_header_compression b)
  refine ⟨_, wire_length b ▸ leadsTo_trans (leadsTo_step hblkHdr) <|
    leadsTo_trans (leadsTo_step (fdStep_params_plain (p := leBytes 2 0) rfl rfl rfl
      (by rw [← htype0] at hne; exact hne))) <|
    leadsTo_trans (leadsTo_step (fdStep_payload_plain (p := b.payload) rfl rfl (le16_header_compression b) hsize')) <|
    leadsTo_trans (leadsTo_step (fdStep_decode_plain (d := b.payload) rfl rfl (le16_header_compression b)
      (by rw [← htype0] at hne; exact hne) rfl h.ckKind hsize)) <|
    leadsTo_step (fdStep_crc_ok (c := leBytes 4 b.stored.toNat) rfl rfl rfl), ?_, ?_⟩
  · refine ⟨rfl, rfl, ?_, h.eof, h.abortReq, h.ckKind, h.error, h.magic, h.magicOk, ?_⟩
    · rw [← h.cursor]
      exact cursor_past_block s.fd.cursor b
    · refine congrArg₂ (· ++ ·) h.results (congrArg (fun r => [r]) ?_)
      rw [le32_leBytes]
      exact record_eq hlt h.ckKind (crc_of_block b) htype0 (le16_header_compression b) hbusize rfl rfl rfl rfl
        (by rw [← htype0]; rfl)
  · rw [PlainBlock.event, ← htype0]
    rfl

/-! ## The whole container -/

/-- The steps of a list of plain blocks, and the last one, to DONE. -/
theorem runsTo_done_of_blocks {bs : List PlainBlock} {s : State} {cursor : BitVec 64} {records : List BlockRecord}
    (hbs : ∀ b ∈ bs, b.btype.toNat ≤ 4 ∧ b.payload.length ≤ blockLimit)
    (h : AtBoundary s.fd (bs.flatMap PlainBlock.wire) cursor records) :
    ∃ t u, RunsTo s t .done (bs.flatMap PlainBlock.wire).length ∧ t.fd = { u with phase := .done } ∧
      AtBoundary u [] (cursor + BitVec.ofNat 64 (bs.flatMap PlainBlock.wire).length)
        (records ++ bs.map PlainBlock.record) ∧
      t.host.events = s.host.events ++ bs.map PlainBlock.event := by
  induction bs generalizing s cursor records with
  | nil =>
    refine ⟨_, s.fd, .stop (fdStep_blkHdr_done h.phase h.abortReq h.eof h.src) (by decide), rfl, ?_, ?_⟩
    · simpa using h
    · simp
  | cons b bs ih =>
    obtain ⟨htype, hsize⟩ := hbs b List.mem_cons_self
    obtain ⟨t, hlead, hat, hevents⟩ := leadsTo_block htype hsize h
    obtain ⟨v, u, hrun, hfd, hu, hevents'⟩ := ih (fun b hb => hbs b (List.mem_cons_of_mem _ hb)) hat
    refine ⟨v, u, ?_, hfd, ?_, ?_⟩
    · rw [List.flatMap_cons, List.length_append]
      exact hlead v .done _ hrun
    · rw [List.flatMap_cons, List.length_append, BitVec.ofNat_add, ← BitVec.add_assoc, List.map_cons,
        List.append_cons]
      exact hu
    · simp [hevents', hevents]

/-- The 10 bytes of the file header. -/
def fileHeader : List Byte := [0x47, 0x43, 0x44, 0x45] ++ leBytes 4 1 ++ leBytes 2 1

theorem le16_fileHeader : le16 fileHeader 8 = 1#16 := le16_of_window rfl

theorem le32_fileHeader : le32 fileHeader 0 = 0x45444347#32 := le32_of_window rfl

theorem take_fileHeader : (fileHeader.take 4 == magicBytes) = true := by decide

theorem container_eq (bs : List PlainBlock) : container bs = fileHeader ++ bs.flatMap PlainBlock.wire := rfl

/-- The first step of a plain container, to its first block. -/
theorem leadsTo_first_block {bs : List PlainBlock} {s : State}
    (h : s.fd = { Fd.started with src := container bs, eof := true }) :
    ∃ t, LeadsTo s t 10 ∧ AtBoundary t.fd (bs.flatMap PlainBlock.wire) 10#64 [] ∧ t.host.events = s.host.events := by
  have hphase : s.fd.phase = .fileHdr := by rw [h]; rfl
  have hsrc : s.fd.src = fileHeader ++ bs.flatMap PlainBlock.wire := by rw [h]; rfl
  refine ⟨_, leadsTo_step (fdStep_fileHdr_ok hphase hsrc rfl le16_fileHeader), ?_, rfl⟩
  rw [h]
  exact ⟨rfl, rfl, rfl, rfl, rfl, le16_fileHeader, rfl, le32_fileHeader, take_fileHeader, rfl⟩

/-- Settles O56: the file header, then block after block. -/
theorem plainContainerParses : Obligations.PlainContainerParses := by
  intro bs s hbs hlen hfd
  obtain ⟨t, hlead, hat, hevents⟩ := leadsTo_first_block hfd
  obtain ⟨v, u, hrun, hvfd, hu, hevents'⟩ := runsTo_done_of_blocks hbs hat
  have hlength : (container bs).length = 10 + (bs.flatMap PlainBlock.wire).length := by
    rw [container_eq, List.length_append]
    rfl
  have hcursor : u.cursor.toNat = (container bs).length := by
    rw [hu.cursor, BitVec.add_def, hlength, BitVec.toNat_ofNat, BitVec.toNat_ofNat, BitVec.toNat_ofNat]
    omega
  refine ⟨v, hlength ▸ exec_fdRun_of_runsTo (hlead v .done _ hrun), ?_⟩
  rw [hvfd, hevents', hevents]
  exact ⟨rfl, hu.error, hu.results, hcursor, hu.magic, hu.magicOk, rfl⟩

end Sys2Proof.Proofs

/-! PROOFS of the statements about the codecs' bits, windows, polls and match search
(spec/42_heatshrink_decoder.md R175 to R182, spec/43_heatshrink_encoder.md R212 to R222). -/

namespace Sys2Proof.Proofs

open Sys2Proof.Machine Sys2Proof.Claims

/-! ## `take(k)` (R175) -/

theorem natOfBitsFrom_eq_foldl (v : Nat) (bits : List Bool) :
    natOfBitsFrom v bits = bits.foldl (fun v b => 2 * v + bit b) v := by
  induction bits generalizing v with
  | nil => rfl
  | cons b bits ih =>
    rw [natOfBitsFrom, ih]
    cases b <;> rfl

/-- The value of the bits that show a number. -/
theorem bitsValue_bitsOfNat {k v : Nat} (h : v < 2 ^ k) : bitsValue (bitsOfNat k v) = v := by
  rw [bitsValue, ← natOfBitsFrom_eq_foldl, natOfBitsFrom_bitsOfNat, Nat.zero_mul, Nat.zero_add, Nat.mod_eq_of_lt h]

theorem takeValue_and_rest {k : Nat} {u : Hsd} (h : k ≤ u.avail) :
    u.takeValue k = bitsValue ((pendingBits u).take k) ∧ pendingBits (u.taken k) = (pendingBits u).drop k := by
  have hlen := bitsOfNat_length k (u.takeValue k)
  rw [pendingBits_eq_takeValue_append h, List.take_left' hlen, List.drop_left' hlen,
    bitsValue_bitsOfNat (u.takeValue_lt k)]
  exact ⟨rfl, rfl⟩

theorem load_of_left_ne_zero {u : Hsd} (h : u.left ≠ 0) : u.load = u := if_neg h

theorem load_of_left_eq_zero {u : Hsd} {b : Byte} {rest : List Byte} (hleft : u.left = 0) (hinq : u.inq = b :: rest) :
    u.load = { u with cur := b, left := 8#4, inq := rest } := by
  rw [Hsd.load, if_pos (show u.left = 0#4 from hleft), hinq]

/-- Settles O25: the bits taken are the first of those pending; a byte is loaded when LEFT is 0. -/
theorem takeReadsTheNextBits : Obligations.TakeReadsTheNextBits := by
  refine ⟨fun k u h _ => takeValue_and_rest h, fun _ => rfl, fun k u hleft => ?_, fun k u b rest hleft hinq => ?_⟩
  · rw [Hsd.taken_succ, Hsd.afterBit, load_of_left_ne_zero hleft]
    rfl
  · rw [Hsd.taken_succ, Hsd.afterBit, load_of_left_eq_zero hleft hinq]
    exact congrArg (fun left => Hsd.taken k { u with cur := b, left := left, inq := rest })
      (by decide : 8#4 - 1#4 = 7#4)

/-! ## The response of HSD_POLL (R180) -/

theorem afterBit_inq_suffix (u : Hsd) : u.afterBit.inq <:+ u.inq := by
  show u.load.inq <:+ u.inq
  obtain hload | ⟨b, rest, -, hinq, hload⟩ := u.load_cases
  · rw [hload]
  · rw [hload, hinq]
    exact List.suffix_cons b rest

theorem taken_inq_suffix (k : Nat) (u : Hsd) : (u.taken k).inq <:+ u.inq := by
  induction k generalizing u with
  | zero => exact List.suffix_rfl
  | succ k ih =>
    rw [Hsd.taken_succ]
    exact (ih u.afterBit).trans (afterBit_inq_suffix u)

/-- What HSD_POLL keeps of a unit. -/
structure PollKeeps (u v : Hsd) : Prop where
  cfgd : v.cfgd = u.cfgd
  w : v.w = u.w
  l : v.l = u.l
  inCap : v.inCap = u.inCap
  outCap : v.outCap = u.outCap
  finishing : v.finishing = u.finishing
  misuse : v.misuse = u.misuse
  inq : v.inq <:+ u.inq

theorem pollKeeps_refl (u : Hsd) : PollKeeps u u := ⟨rfl, rfl, rfl, rfl, rfl, rfl, rfl, List.suffix_rfl⟩

theorem pollKeeps_trans {u v w : Hsd} (h : PollKeeps u v) (h' : PollKeeps v w) : PollKeeps u w :=
  ⟨h'.cfgd.trans h.cfgd, h'.w.trans h.w, h'.l.trans h.l, h'.inCap.trans h.inCap, h'.outCap.trans h.outCap,
    h'.finishing.trans h.finishing, h'.misuse.trans h.misuse, h'.inq.trans h.inq⟩

theorem pollKeeps_taken (u : Hsd) (k : Nat) : PollKeeps u (u.taken k) :=
  have hs := u.taken_same k
  ⟨hs.cfgd, hs.w, hs.l, hs.inCap, hs.outCap, hs.finishing, hs.misuse, taken_inq_suffix k u⟩

theorem pollKeeps_copyStep (u : Hsd) : PollKeeps u u.copyStep := ⟨rfl, rfl, rfl, rfl, rfl, rfl, rfl, List.suffix_rfl⟩

theorem pollKeeps_step (u : Hsd) : PollKeeps u u.step := by
  have hs := pollKeeps_taken u u.need
  obtain ⟨-, hstep⟩ | ⟨-, d, index, count, hstep⟩ := hsd_step_form u <;>
    exact hstep ▸ pollKeeps_trans hs ⟨rfl, rfl, rfl, rfl, rfl, rfl, rfl, List.suffix_rfl⟩

theorem pollKeeps_of_run {room : Nat} {u v : Hsd} {st : Status} {d : List Byte} (h : HsdPollRun room u v st d) :
    PollKeeps u v := by
  induction h with
  | copyFull | starved | litFull => exact pollKeeps_refl _
  | copyByte _ _ ih => exact pollKeeps_trans (pollKeeps_copyStep _) ih
  | litByte _ _ _ ih => exact pollKeeps_trans (pollKeeps_step _) ih
  | bits _ _ _ _ ih => exact pollKeeps_trans (pollKeeps_step _) ih

/-- Output is pending: a copy, or a literal whose bits are there. -/
def OutputPending (v : Hsd) : Prop := v.dstate = .copy ∨ (v.dstate = .lit ∧ 8 ≤ v.avail)

/-- A run of HSD_POLL's loop outputs no more than there is room for, and its status says why it ended. -/
theorem hsdPollRun_ends {room : Nat} {u v : Hsd} {st : Status} {d : List Byte} (h : HsdPollRun room u v st d) :
    d.length ≤ room ∧ ((st = .more ∧ d.length = room ∧ OutputPending v) ∨
      (st = .empty ∧ v.dstate ≠ .copy ∧ v.avail < v.need)) := by
  induction h with
  | copyFull hcopy => exact ⟨le_rfl, .inl ⟨rfl, rfl, .inl hcopy⟩⟩
  | starved hcopy hshort => exact ⟨Nat.zero_le _, .inr ⟨rfl, hcopy, hshort⟩⟩
  | litFull hlit hneed =>
    rw [Hsd.need, hlit] at hneed
    exact ⟨le_rfl, .inl ⟨rfl, rfl, .inr ⟨hlit, hneed⟩⟩⟩
  | copyByte _ _ ih | litByte _ _ _ ih =>
    obtain ⟨hle, ⟨hst, hlen, hpending⟩ | hempty⟩ := ih
    · exact ⟨Nat.succ_le_succ hle, .inl ⟨hst, congrArg Nat.succ hlen, hpending⟩⟩
    · exact ⟨Nat.succ_le_succ hle, .inr hempty⟩
  | bits _ _ _ _ ih => exact ih

/-- Settles O27, along the run of HSD_POLL's loop. -/
theorem hsdPollResponse : Obligations.HsdPollResponse := by
  intro s h
  have hrun := hsd_poll_run s.hsd
  obtain ⟨hle, hends⟩ := hsdPollRun_ends hrun
  have hk := pollKeeps_of_run hrun
  exact ⟨_, _, _, exec_hsdPoll_of_configured h, hle, hends, hk.cfgd.trans h, hk.w, hk.l, hk.inCap, hk.outCap,
    hk.finishing, hk.misuse, hk.inq⟩

/-! ## The window of the decoder (R175, R182) -/

theorem hsd_putRule {u : Hsd} {c : Byte} (hwf : Memory.wf (2 ^ u.w.toNat) u.dict) : PutRule u c := by
  obtain ⟨hsorted, -⟩ := hwf
  refine ⟨rfl, fun a _ => ?_⟩
  rw [Hsd.put_dict, Hsd.size]
  split
  next heq => rw [heq, memRead_memWrite_same hsorted]
  next hne => exact memRead_memWrite_other hne

/-- The window after the bytes `out`: it is well-formed, and each offset reads the byte output so many bytes before. -/
theorem window_reads_back (w : Nat) (out : List Byte) :
    Memory.wf (2 ^ w) (out.foldl (HsWindow.push w) ⟨[], 0⟩).dict ∧ ∀ o, 1 ≤ o → o ≤ 2 ^ w →
      (out.foldl (HsWindow.push w) ⟨[], 0⟩).back w o = if o ≤ out.length then out.getD (out.length - o) 0 else 0#8 := by
  induction out using List.reverseRecOn with
  | nil => exact ⟨Memory.wf_nil _, fun o hpos _ => (if_neg (Nat.not_le_of_lt hpos)).symm⟩
  | append_singleton out c ih =>
    obtain ⟨hwf, hback⟩ := ih
    rw [List.foldl_append]
    refine ⟨Memory.wf_memWrite hwf (Nat.mod_lt _ (Nat.two_pow_pos w)), fun o hpos hmax => ?_⟩
    rw [List.foldl_cons, List.foldl_nil, back_push hwf c hpos hmax, List.length_append, List.length_singleton]
    split
    next hone =>
      subst hone
      rw [if_pos (Nat.le_add_left 1 _), Nat.add_sub_cancel, List.getD_append_right _ _ _ _ le_rfl, Nat.sub_self]
      rfl
    next hne =>
      rw [hback (o - 1) (by omega) (by omega), show out.length - (o - 1) = out.length + 1 - o by omega]
      obtain hin | hout := Nat.lt_or_ge (out.length + 1) o
      · rw [if_neg (by omega), if_neg (by omega)]
      · rw [if_pos (by omega), if_pos hout, List.getD_append _ _ _ _ (by omega)]

/-- The unit's window follows the pure decoder's while bytes are put. -/
theorem sameWindow_foldl_put (out : List Byte) {u : Hsd} {d : HsWindow} (h : SameWindow u d) :
    SameWindow (out.foldl Hsd.put u) (out.foldl (HsWindow.push u.w.toNat) d) ∧ (out.foldl Hsd.put u).w = u.w ∧
      (out.foldl Hsd.put u).index = u.index := by
  induction out generalizing u d with
  | nil => exact ⟨h, rfl, rfl⟩
  | cons c out ih => exact ih (sameWindow_put h c)

/-- Settles O31. -/
theorem windowReadsBackOutput : Obligations.WindowReadsBackOutput := by
  have hpure (w o : Nat) (out : List Byte) (hpos : 1 ≤ o) (hmax : o ≤ 2 ^ w) :
      (out.foldl (HsWindow.push w) ⟨[], 0⟩).back w o = if o ≤ out.length then out.getD (out.length - o) 0 else 0#8 :=
    have ⟨_, hback⟩ := window_reads_back w out
    hback o hpos hmax
  refine ⟨fun u c hwf => hsd_putRule hwf, fun u out hdict hhead hpos hmax => ?_, hpure⟩
  obtain ⟨hsame, hw, hindex⟩ := sameWindow_foldl_put out (u := u) (d := ⟨[], 0⟩) ⟨hdict, hhead⟩
  rw [copyByte_eq_back hsame (by rw [hw, hindex]; exact hmax), hw, hindex, hpure _ _ _ hpos hmax]

/-! ## HSE_SINK and HSE_FINISH (R215, R222) -/

/-- Settles O33: the three outcomes of HSE_SINK in the order of R215. -/
theorem hseSinkRule : Obligations.HseSinkRule := by
  refine ⟨encodedAny_of_decode fun imm din => by rw [decode, opcodeOf_cmd]; rfl, fun din s => ?_⟩
  split
  next hmisuse => exact exec_hseSink_of_misuse hmisuse din
  next hready =>
    split
    next hfull => exact exec_hseSink_of_full hready hfull din
    next hroom => rw [exec_hseSink_of_room hready hroom, sinkTaken_length, sinkTaken_eq_take_min]

/-- Settles O35: once FINISHING is set, `hse_done` says what is left. -/
theorem hseFinishRule : Obligations.HseFinishRule := by
  refine ⟨encodedBare_of_decode fun imm din => by rw [decode, opcodeOf_cmd]; rfl, fun s => ?_⟩
  split
  next h => exact exec_hseFinish_of_unconfigured h
  next h =>
    rw [exec_hseFinish_of_configured (Bool.eq_true_of_not_eq_false h)]
    simp only [hse_done_iff, true_and]

/-! ## The match search (R216) -/

/-- The inner loop counts every byte that agrees, up to its limit. -/
theorem le_matchLen_of_agrees {S : Nat → Byte} {p o m n k : Nat} (h : Agrees S p o k) (hk : k ≤ m + n) :
    k ≤ matchLen S p o n m := by
  induction n generalizing m with
  | zero => exact hk
  | succ n ih =>
    rw [matchLen]
    split
    next => exact ih (by omega)
    next hne => exact Nat.le_of_not_lt fun hlt => hne (h m hlt)

/-- `best` is the longest match at an offset before `o`, and longer than at every offset before its own. -/
structure BestBefore (S : Nat → Byte) (p maxlen o : Nat) (best : Match) : Prop where
  longest : ∀ x, 1 ≤ x → x < o → matchLen S p x maxlen 0 ≤ best.len
  nearest : ∀ x, 1 ≤ x → x < best.off → matchLen S p x maxlen 0 < best.len

theorem bestBefore_orBetter {S : Nat → Byte} {p maxlen o : Nat} {best : Match} (h : BestBefore S p maxlen o best) :
    BestBefore S p maxlen (o + 1) (best.orBetter (matchLen S p o maxlen 0) o) := by
  have hcases {x : Nat} (hx : x < o + 1) : x < o ∨ x = o := Nat.lt_succ_iff_lt_or_eq.mp hx
  rw [Match.orBetter]
  split
  next hlonger =>
    refine ⟨fun x hpos hx => ?_, fun x hpos hx => Nat.lt_of_le_of_lt (h.longest x hpos hx) hlonger⟩
    obtain hlt | rfl := hcases hx
    · exact Nat.le_of_lt (Nat.lt_of_le_of_lt (h.longest x hpos hlt) hlonger)
    · exact le_rfl
  next hno =>
    refine ⟨fun x hpos hx => ?_, h.nearest⟩
    obtain hlt | rfl := hcases hx
    · exact h.longest x hpos hlt
    · exact Nat.le_of_not_lt hno

theorem bestBefore_findLoop {S : Nat → Byte} {p maxlen : Nat} (n o : Nat) {best : Match}
    (h : BestBefore S p maxlen o best) : BestBefore S p maxlen (o + n) (findLoop S p maxlen n o best) := by
  induction n generalizing o best with
  | zero => exact h
  | succ n ih =>
    rw [findLoop, Nat.add_succ, ← Nat.succ_add]
    exact ih (o + 1) (bestBefore_orBetter h)

theorem bestBefore_findMatch (w : Nat) (S : Nat → Byte) (p maxlen : Nat) :
    BestBefore S p maxlen (1 + 2 ^ w) (findMatch w S p maxlen) :=
  bestBefore_findLoop (2 ^ w) 1
    ⟨fun _ hpos hx => absurd hx (Nat.not_lt_of_le hpos), fun _ _ hx => absurd hx (Nat.not_lt_zero _)⟩

/-- Settles O37: what the loop has scanned, it has scanned for the longest match, nearest first. -/
theorem matchSearchIsGreedy : Obligations.MatchSearchIsGreedy := by
  intro w p maxlen S _
  obtain ⟨hlen, hpos, hmax⟩ := findMatch_bounds w S p maxlen
  obtain ⟨hlongest, hnearest⟩ := bestBefore_findMatch w S p maxlen
  refine ⟨hlen, fun hfound => ⟨hpos hfound, hmax, findMatch_agrees w S p maxlen⟩, fun o m ho hle hm hagrees => ?_,
    fun o ho hlt hagrees => ?_⟩
  · exact (le_matchLen_of_agrees hagrees (by omega)).trans (hlongest o ho (by omega))
  · exact absurd (le_matchLen_of_agrees hagrees (by omega)) (Nat.not_le_of_lt (hnearest o ho hlt))

/-! ## HSE_POLL (R217 to R221) -/

theorem hse_outputRule (u : Hse) : OutputRule u :=
  ⟨hse_canScan_iff u, fun _ => ⟨BitVec.toNat_ofNat _ _, rfl⟩, fun _ _ => ⟨BitVec.toNat_ofNat _ _, rfl⟩⟩

theorem hse_tokenRule {u : Hse} (h : u.Inv) (hcfgd : u.cfgd = true) (hbits : u.nbits.toNat < 8) (hq : u.q ≠ []) :
    TokenRule u := by
  obtain ⟨nbits, obits, happ, hform⟩ := hse_encodeToken_form h hcfgd hbits
  obtain ⟨-, hle⟩ := tokenBytes_bounds hq
  rw [TokenRule, hform]
  refine ⟨happ.pending, happ.obits_lt, rfl, fun a ha => ?_, rfl⟩
  rw [← histThenQueue_advance (u := u) h.hist_wf hle, histThenQueue_of_lt (u := u.advance _) ha]
  rfl

/-- A token moves at least one byte out of the queue, in every state. -/
theorem encodeToken_q_length_lt {u : Hse} (h : u.canScan = true) : u.encodeToken.q.length < u.q.length := by
  obtain ⟨hpos, -⟩ := (hse_canScan_iff u).mp h
  unfold Hse.encodeToken
  split <;> simp only [Hse.advance_q, Hse.putBits_q, List.length_drop] <;> omega

/-- The loop of the model is a run of R221's loop to one of its own ends, given iterations enough. -/
theorem hsePollLoop_run (fuel room : Nat) (u : Hse) (h : room + u.q.length < fuel) :
    HsePollRun room u (hsePollLoop fuel room u).unit (hsePollLoop fuel room u).status
      (hsePollLoop fuel room u).dout := by
  induction fuel generalizing room u with
  | zero => omega
  | succ fuel ih =>
    unfold hsePollLoop
    split
    next h8 =>
      obtain _ | room := room
      · exact .byteFull h8
      · exact .byteOut h8 (ih room u.afterByte (by rw [Hse.afterByte_q]; omega))
    next h8 =>
      have hshort := Nat.lt_of_not_le h8
      split
      next hscan =>
        have := encodeToken_q_length_lt hscan
        exact .token hshort hscan (ih room u.encodeToken (by omega))
      next hscan =>
        have hscan' := Bool.eq_false_of_not_eq_true hscan
        split
        next hlast =>
          obtain ⟨hfin, hq, hbits⟩ := (hse_lastDue_iff u).mp hlast
          obtain _ | room := room
          · exact .lastFull hshort hscan' hfin hq hbits
          · exact .lastOut hshort hscan' hfin hq hbits (ih room u.afterLast (by rw [Hse.afterLast_q]; omega))
        next hlast => exact .idle hshort hscan' (mt (hse_lastDue_iff u).mpr hlast)

theorem hse_poll_run (u : Hse) : HsePollRun u.outCap.toNat u u.poll.unit u.poll.status u.poll.dout :=
  hsePollLoop_run _ _ u (Nat.lt_succ_self _)

/-- Settles O34: the output bytes and the token, and that the loop of the model ends as R221 says. -/
theorem hsePollRule : Obligations.HsePollRule :=
  ⟨encodedBare_of_decode fun imm din => by rw [decode, opcodeOf_cmd]; rfl, hse_outputRule,
    fun _ h hcfgd hbits hq => hse_tokenRule h hcfgd hbits hq, fun _ h => exec_hsePoll_of_unconfigured h,
    fun s h => ⟨_, _, _, hse_poll_run s.hse, exec_hsePoll_of_configured h⟩⟩

end Sys2Proof.Proofs

/-! PROOFS of the statements about the units' invariants (spec/10_state.md R24 to R60): the reset state meets them, and
every step keeps them. A step executes one command; a command of another unit leaves the unit as it is, RESET_ALL clears
it, and each of the unit's own commands keeps its invariant. -/

namespace Sys2Proof.Proofs

open Sys2Proof.Machine Sys2Proof.Claims

/-! ## From commands to steps -/

/-- What every command keeps of a unit, a step keeps: issuing a command and ILLEGAL change no unit. -/
theorem step_keeps {α : Type} {get : State → α} {P : α → Prop} (hissued : ∀ s cs, get (s.issued cs) = get s)
    (hillegal : ∀ s, get s.raiseIllegal = get s) (hexec : ∀ i s t, P (get s) → exec i s = .next t → P (get t))
    {s t : State} (h : P (get s)) (hstep : step s = .next t) : P (get t) := by
  cases hpending : s.host.pending with
  | nil =>
    rw [step_of_pending_nil hpending] at hstep
    cases hstep
    exact h
  | cons c rest =>
    rw [step_of_pending_cons hpending, execute] at hstep
    have hrest : P (get (s.issued rest)) := by rwa [hissued]
    split at hstep
    next i _ => exact hexec i _ t hrest hstep
    next =>
      cases hstep
      rwa [hillegal]

/-- A command keeps what holds of the cleared unit, if the unit's own commands do. -/
theorem exec_keeps {α : Type} {get : State → α} {P : α → Prop} {unit : Unit6}
    (hother : ∀ i s t, exec i s = .next t → unitOf i ≠ unit → i ≠ .resetAll → get t = get s)
    (hreset : ∀ s : State, P (get s.resetUnits))
    (hreply : ∀ s : State, get (s.resetUnits.reply .ok 0 []) = get s.resetUnits)
    (hown : ∀ i s t, unitOf i = unit → P (get s) → exec i s = .next t → P (get t)) (i : Instr) (s t : State)
    (h : P (get s)) (hexec : exec i s = .next t) : P (get t) := by
  by_cases hresetAll : i = .resetAll
  · subst hresetAll
    cases hexec
    rw [hreply]
    exact hreset s
  · by_cases hunit : unitOf i = unit
    · exact hown i s t hunit h hexec
    · rwa [hother i s t hexec hunit hresetAll]

/-! ## HSD (R24 to R33) -/

theorem hsd_inv_cleared (m : Bool) : { Hsd.cleared with misuse := m }.Inv where
  unconfigured _ := rfl
  configured := nofun
  queue := Nat.zero_le _
  left_le := Nat.zero_le _
  idxHi := nofun
  idxLo := nofun
  offset := nofun
  cntHi := nofun
  cntLo := nofun
  copy := nofun
  dict_wf := Memory.wf_nil _

theorem hsd_inv_misuse {u : Hsd} (h : u.Inv) : { u with misuse := true }.Inv := by
  obtain hcfgd | hcfgd := Bool.eq_false_or_eq_true u.cfgd
  · exact hsd_inv_flags h hcfgd u.finishing true
  · rw [h.unconfigured hcfgd]
    exact hsd_inv_cleared true

theorem hsd_inv_start {w l : BitVec 4} {i o : BitVec 32} (h : ConfigLegal w l i o) :
    { Hsd.cleared with cfgd := true, w := w, l := l, inCap := i, outCap := o }.Inv := (tracks_start h).inv

theorem hsd_inv_streamReset {u : Hsd} (h : u.Inv) (hcfgd : u.cfgd = true) : u.streamReset.Inv := by
  have hstart := hsd_inv_start (h.configured hcfgd)
  rw [← hcfgd] at hstart
  exact hstart

theorem hsd_inv_sink {u : Hsd} (h : u.Inv) (hcfgd : u.cfgd = true) {bytes : List Byte}
    (hroom : u.inq.length + bytes.length ≤ u.inCap.toNat) : { u with inq := u.inq ++ bytes }.Inv :=
  { h with
    unconfigured := fun hno => absurd (hcfgd.symm.trans hno) nofun
    queue := List.length_append.trans_le hroom }

theorem hsd_inv_pollRun {room : Nat} {u v : Hsd} {st : Status} {d : List Byte} (hrun : HsdPollRun room u v st d)
    (h : u.Inv) (hcfgd : u.cfgd = true) : v.Inv := by
  induction hrun with
  | copyFull | starved | litFull => exact h
  | copyByte hcopy _ ih => exact ih (hsd_inv_copyStep h hcfgd hcopy) hcfgd
  | litByte _ hneed _ ih | bits _ _ hneed _ ih => exact ih (hsd_inv_step h hcfgd hneed) ((hsd_step_cfgd _).trans hcfgd)

/-- A command that answers from a state with the unit `u`. -/
theorem hsd_inv_of_answer {i : Instr} {s t u : State} {st : Status} {n : Nat} {d : List Byte}
    (hexec : exec i s = .next t) (heq : exec i s = answer u st n d) (hu : u.hsd.Inv) : t.hsd.Inv := by
  cases heq.symm.trans hexec
  exact hu

theorem hsd_inv_exec (i : Instr) (s t : State) (hunit : unitOf i = .hsd) (h : s.hsd.Inv) (hexec : exec i s = .next t) :
    t.hsd.Inv := by
  have hconfigured (hno : s.hsd.cfgd ≠ false) : s.hsd.cfgd = true := Bool.eq_true_of_not_eq_false hno
  have hmisuse := hsd_inv_misuse h
  cases i with
  | hsdCfg w l inCap outCap =>
    by_cases hlegal : ConfigLegal w l inCap outCap
    · exact hsd_inv_of_answer hexec (exec_hsdCfg_of_legal hlegal s) (hsd_inv_start hlegal)
    · exact hsd_inv_of_answer hexec (exec_hsdCfg_of_illegal hlegal s) (hsd_inv_cleared false)
  | hsdSink din =>
    by_cases hclosed : s.hsd.cfgd = false ∨ s.hsd.finishing = true
    · exact hsd_inv_of_answer hexec (exec_hsdSink_of_misuse hclosed din) hmisuse
    · by_cases hfull : s.hsd.inCap.toNat - s.hsd.inq.length = 0
      · exact hsd_inv_of_answer hexec (exec_hsdSink_of_full hclosed hfull din) h
      · have hlen := sinkTaken_length s.hsd.inCap s.hsd.inq din
        exact hsd_inv_of_answer hexec (exec_hsdSink_of_room hclosed hfull din)
          (hsd_inv_sink h (hconfigured fun hno => hclosed (.inl hno)) (by omega))
  | hsdPoll =>
    by_cases hcfgd : s.hsd.cfgd = false
    · exact hsd_inv_of_answer hexec (exec_hsdPoll_of_unconfigured hcfgd) hmisuse
    · exact hsd_inv_of_answer hexec (exec_hsdPoll_of_configured (hconfigured hcfgd))
        (hsd_inv_pollRun (hsd_poll_run s.hsd) h (hconfigured hcfgd))
  | hsdFinish =>
    by_cases hcfgd : s.hsd.cfgd = false
    · exact hsd_inv_of_answer hexec (exec_hsdFinish_of_unconfigured hcfgd) hmisuse
    · exact hsd_inv_of_answer hexec (exec_hsdFinish_of_configured (hconfigured hcfgd))
        (hsd_inv_flags h (hconfigured hcfgd) true s.hsd.misuse)
  | hsdReset =>
    by_cases hcfgd : s.hsd.cfgd = false
    · exact hsd_inv_of_answer hexec (exec_hsdReset_of_unconfigured hcfgd) hmisuse
    · exact hsd_inv_of_answer (u := { s with hsd := s.hsd.streamReset }) hexec (if_neg hcfgd)
        (hsd_inv_streamReset h (hconfigured hcfgd))
  | _ => cases hunit

theorem hsd_eq_of_exec_other_unit (i : Instr) (s t : State) (hexec : exec i s = .next t) (hunit : unitOf i ≠ .hsd)
    (hreset : i ≠ .resetAll) : t.hsd = s.hsd := by
  obtain ⟨-, hhsd, -⟩ := commandsTouchOnlyTheirUnit i s t hexec
  exact hhsd hunit hreset

/-- Settles O57. -/
theorem hsdInvariantKept : Obligations.HsdInvariantKept := fun _ _ =>
  step_keeps (fun _ _ => rfl) (fun _ => rfl)
    (exec_keeps hsd_eq_of_exec_other_unit (fun _ => hsd_inv_cleared false) (fun _ => rfl) hsd_inv_exec)

/-! ## HSE (R34 to R41) -/

theorem hse_inv_cleared (m : Bool) : { Hse.cleared with misuse := m }.Inv where
  unconfigured _ := rfl
  configured := nofun
  queue := Nat.zero_le _
  nbits_le := Nat.zero_le _
  obits_lt := Nat.one_pos
  hist_wf := Memory.wf_nil _

theorem hse_inv_misuse {u : Hse} (h : u.Inv) : { u with misuse := true }.Inv := by
  obtain hcfgd | hcfgd := Bool.eq_false_or_eq_true u.cfgd
  · exact hse_inv_flags h hcfgd u.finishing true
  · rw [h.unconfigured hcfgd]
    exact hse_inv_cleared true

theorem hse_inv_start {w l : BitVec 4} {i o : BitVec 32} (h : ConfigLegal w l i o) :
    { Hse.cleared with cfgd := true, w := w, l := l, inCap := i, outCap := o }.Inv := (encodeTracks_start h).inv

theorem hse_inv_encoderReset {u : Hse} (h : u.Inv) (hcfgd : u.cfgd = true) : u.encoderReset.Inv := by
  have hstart := hse_inv_start (h.configured hcfgd)
  rw [← hcfgd] at hstart
  exact hstart

theorem encodeToken_cfgd (u : Hse) : u.encodeToken.cfgd = u.cfgd := by
  unfold Hse.encodeToken
  split <;> rfl

theorem hse_inv_pollRun {room : Nat} {u v : Hse} {st : Status} {d : List Byte} (hrun : HsePollRun room u v st d)
    (h : u.Inv) (hcfgd : u.cfgd = true) : v.Inv := by
  induction hrun with
  | byteFull | lastFull | idle => exact h
  | byteOut h8 _ ih => exact ih (hse_inv_afterByte h hcfgd h8) hcfgd
  | token hshort _ _ ih => exact ih (hse_inv_encodeToken h hcfgd hshort) ((encodeToken_cfgd _).trans hcfgd)
  | lastOut _ _ _ _ _ _ ih => exact ih (hse_inv_afterLast h hcfgd) hcfgd

theorem hse_inv_of_answer {i : Instr} {s t u : State} {st : Status} {n : Nat} {d : List Byte}
    (hexec : exec i s = .next t) (heq : exec i s = answer u st n d) (hu : u.hse.Inv) : t.hse.Inv := by
  cases heq.symm.trans hexec
  exact hu

theorem hse_inv_exec (i : Instr) (s t : State) (hunit : unitOf i = .hse) (h : s.hse.Inv) (hexec : exec i s = .next t) :
    t.hse.Inv := by
  have hconfigured (hno : s.hse.cfgd ≠ false) : s.hse.cfgd = true := Bool.eq_true_of_not_eq_false hno
  have hmisuse := hse_inv_misuse h
  cases i with
  | hseCfg w l inCap outCap =>
    by_cases hlegal : ConfigLegal w l inCap outCap
    · exact hse_inv_of_answer hexec (exec_hseCfg_of_legal hlegal s) (hse_inv_start hlegal)
    · exact hse_inv_of_answer hexec (exec_hseCfg_of_illegal hlegal s) (hse_inv_cleared false)
  | hseSink din =>
    by_cases hclosed : s.hse.cfgd = false ∨ s.hse.finishing = true
    · exact hse_inv_of_answer hexec (exec_hseSink_of_misuse hclosed din) hmisuse
    · by_cases hfull : s.hse.inCap.toNat - s.hse.q.length = 0
      · exact hse_inv_of_answer hexec (exec_hseSink_of_full hclosed hfull din) h
      · have hlen := sinkTaken_length s.hse.inCap s.hse.q din
        exact hse_inv_of_answer hexec (exec_hseSink_of_room hclosed hfull din)
          (hse_inv_sink h (hconfigured fun hno => hclosed (.inl hno)) (by omega))
  | hsePoll =>
    by_cases hcfgd : s.hse.cfgd = false
    · exact hse_inv_of_answer hexec (exec_hsePoll_of_unconfigured hcfgd) hmisuse
    · exact hse_inv_of_answer hexec (exec_hsePoll_of_configured (hconfigured hcfgd))
        (hse_inv_pollRun (hse_poll_run s.hse) h (hconfigured hcfgd))
  | hseFinish =>
    by_cases hcfgd : s.hse.cfgd = false
    · exact hse_inv_of_answer hexec (exec_hseFinish_of_unconfigured hcfgd) hmisuse
    · exact hse_inv_of_answer hexec (exec_hseFinish_of_configured (hconfigured hcfgd))
        (hse_inv_flags h (hconfigured hcfgd) true s.hse.misuse)
  | hseReset =>
    by_cases hcfgd : s.hse.cfgd = false
    · exact hse_inv_of_answer hexec (exec_hseReset_of_unconfigured hcfgd) hmisuse
    · exact hse_inv_of_answer (u := { s with hse := s.hse.encoderReset }) hexec (if_neg hcfgd)
        (hse_inv_encoderReset h (hconfigured hcfgd))
  | _ => cases hunit

theorem hse_eq_of_exec_other_unit (i : Instr) (s t : State) (hexec : exec i s = .next t) (hunit : unitOf i ≠ .hse)
    (hreset : i ≠ .resetAll) : t.hse = s.hse := by
  obtain ⟨-, -, hhse, -⟩ := commandsTouchOnlyTheirUnit i s t hexec
  exact hhse hunit hreset

/-- Settles O58. -/
theorem hseInvariantKept : Obligations.HseInvariantKept := fun _ _ =>
  step_keeps (fun _ _ => rfl) (fun _ => rfl)
    (exec_keeps hse_eq_of_exec_other_unit (fun _ => hse_inv_cleared false) (fun _ => rfl) hse_inv_exec)

/-! ## MPU (R42 to R45) -/

theorem mpu_inv_exec (i : Instr) (s t : State) (hunit : unitOf i = .mpu) (h : s.mpu.Inv) (hexec : exec i s = .next t) :
    t.mpu.Inv := by
  cases i with
  | mpReset =>
    cases hexec
    exact mpu_inv_cleared
  | mpFeed din =>
    cases hexec
    exact mpu_inv_feed h s.mpNlSkip din
  | _ => cases hunit

theorem mpu_eq_of_exec_other_unit (i : Instr) (s t : State) (hexec : exec i s = .next t) (hunit : unitOf i ≠ .mpu)
    (hreset : i ≠ .resetAll) : t.mpu = s.mpu := by
  obtain ⟨-, -, -, hmpu, -⟩ := commandsTouchOnlyTheirUnit i s t hexec
  exact hmpu hunit hreset

/-- Settles O59. -/
theorem mpuInvariantKept : Obligations.MpuInvariantKept := fun _ _ =>
  step_keeps (fun _ _ => rfl) (fun _ => rfl)
    (exec_keeps mpu_eq_of_exec_other_unit (fun _ => mpu_inv_cleared) (fun _ => rfl) mpu_inv_exec)

/-! ## FD (R46 to R60) -/

theorem fd_inv_cleared (m : Bool) : { Fd.cleared with misuse := m }.Inv where
  idle _ := rfl
  source := (by decide : (0#64).toNat + ([] : List Byte).length < sourceLimit)
  error_iff := ⟨fun h => absurd rfl h, nofun⟩
  inBlock := nofun
  hdrDone := nofun
  ckKind := nofun
  csize := nofun
  bcsize := nofun
  pay _ _ := rfl
  routed _ := ⟨rfl, rfl⟩
  crc := nofun
  blockFits := ⟨Nat.zero_le _, Nat.zero_le _⟩
  recordsFit := nofun
  records _ := rfl
  done := nofun

theorem fd_inv_started : Fd.started.Inv where
  idle := nofun
  source := by decide
  error_iff := by decide
  inBlock := nofun
  hdrDone := nofun
  ckKind := nofun
  csize := nofun
  bcsize := nofun
  pay _ _ := rfl
  routed _ := ⟨rfl, rfl⟩
  crc := nofun
  blockFits := ⟨Nat.zero_le _, Nat.zero_le _⟩
  recordsFit := nofun
  records _ := rfl
  done := nofun

section FdInvariant

variable {f : Fd}

/-- At a block boundary. -/
theorem fd_inv_atBoundary (hphase : f.phase = .blkHdr) (hsource : f.cursor.toNat + f.src.length < sourceLimit)
    (herror : f.error = .none) (hhdr : f.hdrDone = true) (hkind : f.ckKind.toNat ≤ 1) (hpay : f.pay = [])
    (hdec : f.dec = []) (hroute : f.route = []) (hrecords : ∀ r ∈ f.results, r.routed.length ≤ blockLimit) :
    f.Inv where
  idle := by rw [hphase]; exact nofun
  source := hsource
  error_iff := by rw [hphase, herror]; decide
  inBlock := by rw [hphase]; exact nofun
  hdrDone _ := hhdr
  ckKind _ := hkind
  csize := by rw [hphase]; exact nofun
  bcsize := by rw [hphase]; exact nofun
  pay _ _ := hpay
  routed _ := ⟨hdec, hroute⟩
  crc := by rw [hphase]; exact nofun
  blockFits := by rw [hdec, hroute]; exact ⟨Nat.zero_le _, Nat.zero_le _⟩
  recordsFit := hrecords
  records := by rw [hphase]; exact nofun
  done := by rw [hphase]; exact nofun

theorem phase_ne_of_stopped {p : Phase} (h : p = .error ∨ p = .cancelled) :
    ¬ p.inBlock ∧ p ≠ .idle ∧ p ≠ .blkHdr ∧ p ≠ .blkCSize ∧ p ≠ .crc ∧ p ≠ .done := by
  obtain rfl | rfl := h <;> decide

/-- After a fatal error or a cancellation. -/
theorem fd_inv_stopped (hphase : f.phase = .error ∨ f.phase = .cancelled)
    (hsource : f.cursor.toNat + f.src.length < sourceLimit) (herror : f.error ≠ .none ↔ f.phase = .error)
    (hhdr : f.phase = .cancelled → f.hdrDone = true) (hpay : f.pay = []) (hdec : f.dec = []) (hroute : f.route = [])
    (hrecords : f.results = []) : f.Inv := by
  obtain ⟨hin, hidle, hblkHdr, hblkCSize, hcrc, hdone⟩ := phase_ne_of_stopped hphase
  exact {
    idle := fun h => absurd h hidle
    source := hsource
    error_iff := herror
    inBlock := fun h => absurd h hin
    hdrDone := by
      rintro (h | h | h)
      exacts [absurd h hblkHdr, absurd h hdone, hhdr h]
    ckKind := by
      rintro (h | h | h)
      exacts [absurd h hblkHdr, absurd h hin, absurd h hdone]
    csize := fun h => absurd h hblkCSize
    bcsize := fun h => absurd h hin
    pay := fun _ _ => hpay
    routed := fun _ => ⟨hdec, hroute⟩
    crc := fun h => absurd h hcrc
    blockFits := by rw [hdec, hroute]; exact ⟨Nat.zero_le _, Nat.zero_le _⟩
    recordsFit := by rw [hrecords]; exact nofun
    records := fun _ => hrecords
    done := fun h => absurd h hdone }

theorem phase_ne_of_inBlock {p : Phase} (h : p.inBlock) :
    p ≠ .idle ∧ p ≠ .fileHdr ∧ p ≠ .blkHdr ∧ p ≠ .done ∧ p ≠ .error ∧ p ≠ .cancelled := by
  obtain rfl | rfl | rfl | rfl | rfl := h <;> decide

/-! The phase after a block header (R301). -/

theorem inBlock_of_afterHeader (c : Prop) [Decidable c] : (if c then Phase.blkCSize else Phase.params).inBlock := by
  split <;> decide

theorem of_afterHeader_eq_blkCSize {c : Prop} [Decidable c]
    (h : (if c then Phase.blkCSize else Phase.params) = .blkCSize) : c := by
  by_contra hno
  rw [if_neg hno] at h
  cases h

theorem afterHeader_ne_crc (c : Prop) [Decidable c] : (if c then Phase.blkCSize else Phase.params) ≠ .crc := by
  split <;> decide

/-- Inside a block. -/
theorem fd_inv_inBlock {p : Phase} (hphase : f.phase = p) (hp : p.inBlock)
    (hsource : f.cursor.toNat + f.src.length < sourceLimit) (herror : f.error = .none)
    (hheader : f.btype.toNat ≤ 5 ∧ f.comp.toNat ≤ 3 ∧ f.hdrDone = true)
    (hkind : f.ckKind.toNat ≤ 1) (hcsize : p = .blkCSize → f.comp ≠ 0#16)
    (hbcsize : f.comp = 0#16 → f.bcsize = 0#32) (hpay : p ≠ .decode → p ≠ .crc → f.pay = [])
    (hrouted : p ≠ .crc → f.dec = [] ∧ f.route = []) (hcrc : p = .crc → f.ckKind = 1#16)
    (hfits : f.dec.length ≤ blockLimit ∧ f.route.length ≤ blockLimit)
    (hrecords : ∀ r ∈ f.results, r.routed.length ≤ blockLimit) : f.Inv := by
  subst hphase
  obtain ⟨hidle, hfileHdr, hblkHdr, hdone, herr, hcancelled⟩ := phase_ne_of_inBlock hp
  exact {
    idle := fun h => absurd h hidle
    source := hsource
    error_iff := ⟨fun h => absurd herror h, fun h => absurd h herr⟩
    inBlock := fun _ => hheader
    hdrDone := by
      rintro (h | h | h)
      exacts [absurd h hblkHdr, absurd h hdone, absurd h hcancelled]
    ckKind := fun _ => hkind
    csize := hcsize
    bcsize := fun _ => hbcsize
    pay := hpay
    routed := hrouted
    crc := hcrc
    blockFits := hfits
    recordsFit := hrecords
    records := by
      rintro (h | h | h | h)
      exacts [absurd h hidle, absurd h hfileHdr, absurd h herr, absurd h hcancelled]
    done := fun h => absurd h hdone }

variable (h : f.Inv)

include h

theorem error_eq_none (hphase : f.phase ≠ .error) : f.error = .none :=
  not_not.mp (mt h.error_iff.mp hphase)

theorem fd_inv_misuse : { f with misuse := true }.Inv :=
  { h with idle := fun hphase => by rw [h.idle hphase] }

/-- A read moves bytes from the source past the cursor. -/
theorem source_consumed {n : Nat} (hn : n ≤ f.src.length) :
    (f.consumed n).cursor.toNat + (f.consumed n).src.length < sourceLimit := by
  have hsource := h.source
  have hle := f.cursor.isLt
  have hcursor : (f.cursor + BitVec.ofNat 64 n).toNat ≤ f.cursor.toNat + n := by
    rw [BitVec.toNat_add, BitVec.toNat_ofNat]
    omega
  show (f.cursor + BitVec.ofNat 64 n).toNat + (f.src.drop n).length < sourceLimit
  rw [List.length_drop]
  omega

/-- A record appended (R311) fits, and ends the block. -/
theorem fd_inv_appendRecord {g : Fd} {valid : Bool} {stored computed : BitVec 32}
    (hphase : f.phase = .decode ∨ f.phase = .crc) (hsource : g.cursor.toNat + g.src.length < sourceLimit)
    (herror : g.error = f.error) (hhdr : g.hdrDone = f.hdrDone)
    (hkind : g.ckKind = f.ckKind) (hresults : g.results = f.results) (hroute : g.route.length ≤ blockLimit) :
    { g.appendRecord valid stored computed with phase := .blkHdr }.Inv := by
  have hin : f.phase.inBlock := by obtain h | h := hphase <;> rw [h] <;> decide
  obtain ⟨-, -, -, -, hne, -⟩ := phase_ne_of_inBlock hin
  obtain ⟨-, -, hdone⟩ := h.inBlock hin
  refine fd_inv_atBoundary rfl hsource (herror.trans (error_eq_none h hne)) (hhdr.trans hdone)
    (hkind ▸ h.ckKind (.inr (.inl hin))) rfl rfl rfl fun r hr => ?_
  obtain hr | hr := List.mem_append.mp hr
  · exact h.recordsFit r (hresults ▸ hr)
  · rw [List.mem_singleton.mp hr]
    exact hroute

end FdInvariant

section FdSteps

variable {s : State} (h : s.fd.Inv)

include h

/-- Every way a step ends keeps the invariant. -/
theorem fd_inv_of_outcome {d : FdDone} (hout : StepOutcome s d) : d.state.fd.Inv := by
  have hactive {p : Phase} (hphase : s.fd.phase = p) (hp : p ≠ .error) : s.fd.error = .none :=
    error_eq_none h (by rw [hphase]; exact hp)
  cases hout with
  | idle => exact fd_inv_misuse h
  | ended | waiting => exact h
  | cancelled hphase =>
    have herror := hactive hphase (by decide)
    exact fd_inv_stopped (.inr rfl) h.source ⟨fun hne => absurd herror hne, nofun⟩ (fun _ => h.hdrDone (.inl hphase))
      rfl rfl rfl rfl
  | done hphase heof hsrc =>
    have herror := hactive hphase (by decide)
    have hkept : s.fd.phase ≠ .decode ∧ s.fd.phase ≠ .crc := by rw [hphase]; decide
    obtain ⟨hdecode, hcrc⟩ := hkept
    exact {
      h with
      idle := nofun
      error_iff := ⟨fun hne => absurd herror hne, nofun⟩
      inBlock := nofun
      hdrDone := fun _ => h.hdrDone (.inl hphase)
      ckKind := fun _ => h.ckKind (.inl hphase)
      csize := nofun
      bcsize := nofun
      pay := fun _ _ => h.pay hdecode hcrc
      routed := fun _ => h.routed hcrc
      crc := nofun
      records := nofun
      done := fun _ => ⟨heof, hsrc⟩ }
  | fatal hframe hcode hn hsrc hcursor =>
    have hsource := source_consumed h hn
    unfold Fd.consumed at hsource
    rw [← hsrc, ← hcursor] at hsource
    exact fd_inv_stopped (.inl rfl) hsource ⟨fun _ => rfl, fun _ => hcode⟩ nofun rfl rfl rfl rfl
  | fileHdr hphase hn hkind =>
    have hkept : s.fd.phase ≠ .decode ∧ s.fd.phase ≠ .crc := by rw [hphase]; decide
    obtain ⟨hdecode, hcrc⟩ := hkept
    obtain ⟨hdec, hroute⟩ := h.routed hcrc
    exact fd_inv_atBoundary rfl (source_consumed h hn) (hactive hphase (by decide)) rfl hkind (h.pay hdecode hcrc) hdec
      hroute h.recordsFit
  | blkHdr hphase hn htype hcomp =>
    exact fd_inv_inBlock rfl (inBlock_of_afterHeader _) (source_consumed h hn) (hactive hphase (by decide))
      ⟨htype, hcomp, h.hdrDone (.inl hphase)⟩ (h.ckKind (.inl hphase)) of_afterHeader_eq_blkCSize (fun _ => rfl)
      (fun _ _ => rfl) (fun _ => ⟨rfl, rfl⟩) (fun hcrc => absurd hcrc (afterHeader_ne_crc _))
      ⟨Nat.zero_le _, Nat.zero_le _⟩ h.recordsFit
  | blkCSize hphase hn =>
    have hin : s.fd.phase.inBlock := by rw [hphase]; decide
    have hkept : s.fd.phase ≠ .decode ∧ s.fd.phase ≠ .crc := by rw [hphase]; decide
    obtain ⟨hdecode, hcrc⟩ := hkept
    exact fd_inv_inBlock (p := .params) rfl (by decide) (source_consumed h hn) (hactive hphase (by decide))
      (h.inBlock hin) (h.ckKind (.inr (.inl hin))) nofun (fun hno => absurd hno (h.csize hphase))
      (fun _ _ => h.pay hdecode hcrc) (fun _ => h.routed hcrc) nofun h.blockFits h.recordsFit
  | params hphase hn =>
    have hin : s.fd.phase.inBlock := by rw [hphase]; decide
    have hkept : s.fd.phase ≠ .decode ∧ s.fd.phase ≠ .crc := by rw [hphase]; decide
    obtain ⟨hdecode, hcrc⟩ := hkept
    exact fd_inv_inBlock (p := .payload) rfl (by decide) (source_consumed h hn) (hactive hphase (by decide))
      (h.inBlock hin) (h.ckKind (.inr (.inl hin))) nofun (h.bcsize hin) (fun _ _ => h.pay hdecode hcrc)
      (fun _ => h.routed hcrc) nofun h.blockFits h.recordsFit
  | payload hphase hn =>
    have hin : s.fd.phase.inBlock := by rw [hphase]; decide
    have hcrc : s.fd.phase ≠ .crc := by rw [hphase]; decide
    exact fd_inv_inBlock (p := .decode) rfl (by decide) (source_consumed h hn) (hactive hphase (by decide))
      (h.inBlock hin) (h.ckKind (.inr (.inl hin))) nofun (h.bcsize hin) (fun hno => absurd rfl hno)
      (fun _ => h.routed hcrc) nofun h.blockFits h.recordsFit
  | routed hphase hframe hd hr hkind =>
    have hin : s.fd.phase.inBlock := by rw [hphase]; decide
    exact fd_inv_inBlock (p := .crc) rfl (by decide) h.source (hactive hphase (by decide)) (h.inBlock hin)
      (h.ckKind (.inr (.inl hin))) nofun (h.bcsize hin) (fun _ hno => absurd rfl hno) (fun hno => absurd rfl hno)
      (fun _ => hkind) ⟨hd, hr⟩ h.recordsFit
  | recorded hphase hframe hr =>
    exact fd_inv_appendRecord h (.inl hphase) h.source rfl rfl rfl rfl hr
  | checked hphase hn =>
    have ⟨_, hroute⟩ := h.blockFits
    exact fd_inv_appendRecord h (.inr hphase) (source_consumed h hn) rfl rfl rfl rfl hroute

theorem fd_inv_of_runsTo {t : State} {st : Status} {n : Nat} (hrun : RunsTo s t st n) : t.fd.Inv := by
  induction hrun with
  | stop hstep _ => exact fd_inv_of_outcome h (fdStep_outcome hstep)
  | more hstep _ ih => exact ih (fd_inv_of_outcome h (fdStep_outcome hstep))

end FdSteps

/-- FD_PUSH, FD_EOF and FD_ABORT in an active phase: the registers they write are in no other clause. -/
theorem fd_inv_active {f : Fd} (h : f.Inv) (hactive : f.phase.isActive = true) {src : List Byte} {eof abortReq : Bool}
    (hsource : f.cursor.toNat + src.length < sourceLimit) :
    { f with src := src, eof := eof, abortReq := abortReq }.Inv :=
  { h with
    idle := fun hidle => by rw [hidle] at hactive; cases hactive
    source := hsource
    done := fun hdone => by rw [hdone] at hactive; cases hactive }

theorem fd_inv_of_answer {i : Instr} {s t u : State} {st : Status} {n : Nat} {d : List Byte}
    (hexec : exec i s = .next t) (heq : exec i s = answer u st n d) (hu : u.fd.Inv) : t.fd.Inv := by
  cases heq.symm.trans hexec
  exact hu

theorem fd_inv_exec (i : Instr) (s t : State) (hunit : unitOf i = .fd) (h : s.fd.Inv) (hexec : exec i s = .next t) :
    t.fd.Inv := by
  have hmisuse := fd_inv_misuse h
  have hready (hno : ¬ (s.fd.phase.isActive = false ∨ s.fd.eof = true)) : s.fd.phase.isActive = true := by
    obtain ⟨hactive, -⟩ := not_or.mp hno
    exact Bool.eq_true_of_not_eq_false hactive
  cases i with
  | fdStart => exact fd_inv_of_answer hexec (exec_fdStart s) fd_inv_started
  | fdPush din =>
    by_cases hclosed : s.fd.phase.isActive = false ∨ s.fd.eof = true
    · exact fd_inv_of_answer hexec (exec_fdPush_of_misuse hclosed din) hmisuse
    · by_cases hlong : 2 ^ 64 ≤ s.fd.cursor.toNat + s.fd.src.length + din.length
      · cases (exec_fdPush_of_too_long hclosed hlong).symm.trans hexec
      · refine fd_inv_of_answer hexec (exec_fdPush_of_fits hclosed hlong) (fd_inv_active h (hready hclosed) ?_)
        rw [List.length_append, ← Nat.add_assoc]
        exact Nat.lt_of_not_le hlong
  | fdEof =>
    by_cases hclosed : s.fd.phase.isActive = false ∨ s.fd.eof = true
    · exact fd_inv_of_answer hexec (exec_fdEof_of_misuse hclosed) hmisuse
    · exact fd_inv_of_answer hexec (exec_fdEof_of_ready hclosed) (fd_inv_active h (hready hclosed) h.source)
  | fdAbort =>
    cases hactive : s.fd.phase.isActive with
    | false => exact fd_inv_of_answer hexec (exec_fdAbort_of_inactive hactive) h
    | true =>
      cases hexec
      exact fd_inv_active h hactive h.source
  | fdResult n =>
    by_cases hno : s.fd.phase ≠ .done ∨ s.fd.nblocks.toNat ≤ n.toNat
    · exact fd_inv_of_answer hexec (exec_fdResult_of_misuse hno) hmisuse
    · obtain ⟨hdone, hn⟩ := not_or.mp hno
      exact fd_inv_of_answer hexec (exec_fdResult_of_record (not_not.mp hdone) (Nat.lt_of_not_le hn)
        (List.getElem?_eq_getElem (lt_results_length_of_lt_nblocks (Nat.lt_of_not_le hn)))) h
  | fdStep =>
    rw [exec, execFdStep] at hexec
    cases hstep : fdStep s with
    | refused r =>
      rw [hstep] at hexec
      cases hexec
    | done d =>
      rw [hstep] at hexec
      cases hexec
      exact fd_inv_of_outcome h (fdStep_outcome hstep)
  | fdRun =>
    obtain ⟨u, st, n, hrun, heq⟩ | ⟨u, r, -, -, heq⟩ := exec_fdRun_eq s
    · exact fd_inv_of_answer hexec heq (fd_inv_of_runsTo h hrun)
    · cases heq.symm.trans hexec
  | _ => cases hunit

theorem fd_eq_of_exec_outside (i : Instr) (s t : State) (hexec : exec i s = .next t) (hunit : unitOf i ≠ .fd)
    (hreset : i ≠ .resetAll) : t.fd = s.fd := fd_eq_of_exec_other_unit hexec hunit hreset

/-- Settles O60. -/
theorem fdInvariantKept : Obligations.FdInvariantKept := fun _ _ =>
  step_keeps (fun _ _ => rfl) (fun _ => rfl)
    (exec_keeps fd_eq_of_exec_outside (fun _ => fd_inv_cleared false) (fun _ => rfl) fd_inv_exec)

/-! ## The reset state (R380, R392) -/

/-- Settles O11: every unit is cleared, and cleared units meet their invariants. -/
theorem resetIsCleanAndInvariant : Obligations.ResetIsCleanAndInvariant :=
  ⟨⟨rfl, rfl, rfl, rfl, rfl⟩, ⟨rfl, rfl, rfl, rfl, nofun⟩,
    ⟨hsd_inv_cleared false, hse_inv_cleared false, mpu_inv_cleared, fd_inv_cleared false⟩⟩

end Sys2Proof.Proofs
